-- ==== Sys2Proof/Word.lean ====
section
/-! DEFINITION. The widths of the machine: bytes of blob memory (R27), packet words (R70) and 64-bit operands and
results (R74, R77). -/

namespace Sys2Proof

/-- One location of blob memory (R27). -/
abbrev Byte := BitVec 8

/-- One word of a command packet (R70). -/
abbrev Word := BitVec 32

/-- A 64-bit operand or the response's RESULT (R74, R77). -/
abbrev DWord := BitVec 64

end Sys2Proof
end

