-- ==== Sys2Proof/Syntax.lean ====
section
/-! DEFINITION. The syntax: command packets (R70), granularities (R72), formats (R73, R74), the six fault names (R241)
and `Instr`, one constructor per row of spec/opcode_table.json (R79). -/

namespace Sys2Proof

/-- A command packet: five 32-bit words, `W[0]` first, always five (R70). -/
structure Packet where
  w0 : Word
  w1 : Word
  w2 : Word
  w3 : Word
  w4 : Word
deriving DecidableEq, Repr

/-- The granularity selector GRAN (R72). -/
inductive Gran where
  /-- 0b00: the dispatcher chooses. -/
  | auto
  /-- 0b01: the 1-bit strategy. -/
  | g1
  /-- 0b10: the 8-bit strategy. -/
  | g8
  /-- 0b11: the 32-bit strategy. -/
  | g32
deriving DecidableEq, Repr

/-- The operand formats: buffer formats BI to BW (R73), value formats V32 to VW64 (R74). -/
inductive Format where
  | bi | biv | bc | bw | v32 | v64 | v128 | vc32 | vc64 | vw32 | vw64
deriving DecidableEq, Repr

/-- The six fault causes a response can report (R241). -/
inductive CmdFault where
  | illegalCmd | badLen | badGran | badBitIndex | badAmount | badCount
deriving DecidableEq, Repr

/-- The forty commands (R79). Every operand is one whole packet word, or two for a 64-bit operand (R75), so its type
holds exactly the values the packet can carry. -/
inductive Instr where
  -- BitAddress
  | getbit (buf len bit : Word)
  | getbitw (buf len bit : Word)
  | setbit (buf len bit : Word)
  | setbitv (buf len bit val : Word)
  | clearbit (buf len bit : Word)
  | flipbit (buf len bit : Word)
  -- PopulationCounter
  | popcountW32 (x : Word)
  | popcountW64 (x : DWord)
  | popcountW128 (w0 w1 : DWord)
  | parityW32 (x : Word)
  | parityW64 (x : DWord)
  -- shifts
  | lshift (buf len c : Word)
  | lshiftG1 (buf len c : Word)
  | lshiftG8 (buf len c : Word)
  | lshiftG32 (buf len c : Word)
  | rshift (buf len c : Word)
  | rshiftG1 (buf len c : Word)
  | rshiftG8 (buf len c : Word)
  | rshiftG32 (buf len c : Word)
  | lshiftW32 (x c : Word)
  | rshiftW32 (x c : Word)
  | lshiftW64 (x : DWord) (c : Word)
  | rshiftW64 (x : DWord) (c : Word)
  -- rotates
  | lrot (buf len c : Word)
  | lrotG1 (buf len c : Word)
  | lrotG8 (buf len c : Word)
  | lrotG32 (buf len c : Word)
  | rrot (buf len c : Word)
  | rrotG1 (buf len c : Word)
  | rrotG8 (buf len c : Word)
  | rrotG32 (buf len c : Word)
  | lrotW32 (x c : Word)
  | rrotW32 (x c : Word)
  | lrotW64 (x : DWord) (c : Word)
  | rrotW64 (x : DWord) (c : Word)
  -- windows
  | window (buf len start count : Word)
  | windowG8 (buf len start count : Word)
  | windowG32 (buf len start count : Word)
  | windowW32 (x start count : Word)
  | windowW64 (x : DWord) (start count : Word)
deriving DecidableEq, Repr

end Sys2Proof
end

