-- ==== Sys2Proof/WellFormed.lean ====
section
/-! DEFINITION. Which packets are legal, said from the list of R78 and the formats of R73 and R74, apart from the
decoder (R76 and the opcode map), so that the two can be proved to agree.

An `Instr` needs no check of its own: each operand has the type of the packet words that carry it (R75), so every
term of `Instr` can be encoded. What can be ill-formed is a packet, and the five checks below are R78's five cases. -/

namespace Sys2Proof

/-- `W[0][7:0]`, the operation code (R71). -/
def Packet.opc (p : Packet) : Nat := (p.w0.extractLsb' 0 8).toNat

/-- `W[0][9:8]`, the granularity selector (R71). -/
def Packet.gran (p : Packet) : Nat := (p.w0.extractLsb' 8 2).toNat

/-- R78 item 1: `W[0][31:10]` must be 0. -/
def Packet.reservedZero (p : Packet) : Bool := p.w0.extractLsb' 10 22 == 0#22

/-- The operation codes R78 item 2 lists as assigned. -/
def assignedOpcodes : List Nat :=
  [0x10, 0x11, 0x12, 0x13, 0x14, 0x15, 0x20, 0x21, 0x22, 0x24, 0x25, 0x30, 0x31, 0x34, 0x35, 0x36, 0x37,
   0x40, 0x41, 0x44, 0x45, 0x46, 0x47, 0x50, 0x54, 0x56]

/-- R78 item 2: the operation code is assigned. -/
def Packet.opcodeAssigned (p : Packet) : Bool := assignedOpcodes.contains p.opc

/-- R78 item 3: a non-zero GRAN only with the five granular operation codes. -/
def Packet.granAllowed (p : Packet) : Bool :=
  p.gran == 0 || [0x30, 0x31, 0x40, 0x41, 0x50].contains p.opc

/-- R78 item 4: the window has no 1-bit strategy. -/
def Packet.notWindowG1 (p : Packet) : Bool := !(p.opc == 0x50 && p.gran == 1)

/-- Which of `W[2]`, `W[3]`, `W[4]` the format of an operation code marks "must be 0" (R73, R74). -/
def mustBeZero (opc : Nat) : Bool × Bool × Bool :=
  if [0x20, 0x24].contains opc then (true, true, true)             -- V32
  else if [0x21, 0x25].contains opc then (false, true, true)       -- V64
  else if [0x34, 0x35, 0x44, 0x45].contains opc then (true, false, true)   -- VC32
  else if opc == 0x54 then (true, false, false)                    -- VW32
  else if [0x13, 0x22, 0x50, 0x56].contains opc then (false, false, false) -- BIV, V128, BW, VW64
  else (false, false, true)                                        -- BI, BC, VC64

/-- R78 item 5: every word the format marks "must be 0" is 0. -/
def Packet.unusedZero (p : Packet) : Bool :=
  (!(mustBeZero p.opc).1 || p.w2 == 0#32) && (!(mustBeZero p.opc).2.1 || p.w3 == 0#32) &&
    (!(mustBeZero p.opc).2.2 || p.w4 == 0#32)

/-- A packet is legal: none of the five cases of R78 holds. -/
def Packet.wellFormed (p : Packet) : Bool :=
  p.reservedZero && p.opcodeAssigned && p.granAllowed && p.notWindowG1 && p.unusedZero

end Sys2Proof
end

