-- ==== Sys2Proof/Decode.lean ====
section
/-! DEFINITION. The decoder (R76) and, after it, the encoder, both from the opcode map of R79 and the formats of R73 and
R74. Each is written from the tables on its own: the decoder from a table of rows, the encoder from the constructors. -/

namespace Sys2Proof

/-- `{hi, lo}`: a 64-bit operand is carried low word first (R74). -/
def joinWords (hi lo : Word) : DWord := hi ++ lo

/-- The low packet word of a 64-bit operand (R74). -/
def lowWord (x : DWord) : Word := x.extractLsb' 0 32

/-- The high packet word of a 64-bit operand (R74). -/
def highWord (x : DWord) : Word := x.extractLsb' 32 32

/-- The words a format marks "must be 0" are 0 (R73, R74). -/
def Format.unusedZero : Format → Packet → Bool
  | .bi, p => p.w4 == 0#32
  | .biv, _ => true
  | .bc, p => p.w4 == 0#32
  | .bw, _ => true
  | .v32, p => p.w2 == 0#32 && p.w3 == 0#32 && p.w4 == 0#32
  | .v64, p => p.w3 == 0#32 && p.w4 == 0#32
  | .v128, _ => true
  | .vc32, p => p.w2 == 0#32 && p.w4 == 0#32
  | .vc64, p => p.w4 == 0#32
  | .vw32, p => p.w2 == 0#32
  | .vw64, _ => true

/-- One row of the opcode map (30_encoding.md section 4): `W[0]`, the mnemonic, the format, and how the operands are
bound (R76 step 4). -/
structure OpRow where
  word : Word
  mnemonic : String
  format : Format
  bind : Packet → Instr

/-- The rows of BitAddress and PopulationCounter. -/
def opRowsBits : List OpRow :=
  [ ⟨0x10#32, "getbit", .bi, fun p => .getbit p.w1 p.w2 p.w3⟩,
    ⟨0x11#32, "getbitw", .bi, fun p => .getbitw p.w1 p.w2 p.w3⟩,
    ⟨0x12#32, "setbit", .bi, fun p => .setbit p.w1 p.w2 p.w3⟩,
    ⟨0x13#32, "setbitv", .biv, fun p => .setbitv p.w1 p.w2 p.w3 p.w4⟩,
    ⟨0x14#32, "clearbit", .bi, fun p => .clearbit p.w1 p.w2 p.w3⟩,
    ⟨0x15#32, "flipbit", .bi, fun p => .flipbit p.w1 p.w2 p.w3⟩,
    ⟨0x20#32, "popcount.w32", .v32, fun p => .popcountW32 p.w1⟩,
    ⟨0x21#32, "popcount.w64", .v64, fun p => .popcountW64 (joinWords p.w2 p.w1)⟩,
    ⟨0x22#32, "popcount.w128", .v128, fun p => .popcountW128 (joinWords p.w2 p.w1) (joinWords p.w4 p.w3)⟩,
    ⟨0x24#32, "parity.w32", .v32, fun p => .parityW32 p.w1⟩,
    ⟨0x25#32, "parity.w64", .v64, fun p => .parityW64 (joinWords p.w2 p.w1)⟩ ]

/-- The rows of the shifts. -/
def opRowsShift : List OpRow :=
  [ ⟨0x030#32, "lshift", .bc, fun p => .lshift p.w1 p.w2 p.w3⟩,
    ⟨0x130#32, "lshift.g1", .bc, fun p => .lshiftG1 p.w1 p.w2 p.w3⟩,
    ⟨0x230#32, "lshift.g8", .bc, fun p => .lshiftG8 p.w1 p.w2 p.w3⟩,
    ⟨0x330#32, "lshift.g32", .bc, fun p => .lshiftG32 p.w1 p.w2 p.w3⟩,
    ⟨0x031#32, "rshift", .bc, fun p => .rshift p.w1 p.w2 p.w3⟩,
    ⟨0x131#32, "rshift.g1", .bc, fun p => .rshiftG1 p.w1 p.w2 p.w3⟩,
    ⟨0x231#32, "rshift.g8", .bc, fun p => .rshiftG8 p.w1 p.w2 p.w3⟩,
    ⟨0x331#32, "rshift.g32", .bc, fun p => .rshiftG32 p.w1 p.w2 p.w3⟩,
    ⟨0x034#32, "lshift.w32", .vc32, fun p => .lshiftW32 p.w1 p.w3⟩,
    ⟨0x035#32, "rshift.w32", .vc32, fun p => .rshiftW32 p.w1 p.w3⟩,
    ⟨0x036#32, "lshift.w64", .vc64, fun p => .lshiftW64 (joinWords p.w2 p.w1) p.w3⟩,
    ⟨0x037#32, "rshift.w64", .vc64, fun p => .rshiftW64 (joinWords p.w2 p.w1) p.w3⟩ ]

/-- The rows of the rotates. -/
def opRowsRotate : List OpRow :=
  [ ⟨0x040#32, "lrot", .bc, fun p => .lrot p.w1 p.w2 p.w3⟩,
    ⟨0x140#32, "lrot.g1", .bc, fun p => .lrotG1 p.w1 p.w2 p.w3⟩,
    ⟨0x240#32, "lrot.g8", .bc, fun p => .lrotG8 p.w1 p.w2 p.w3⟩,
    ⟨0x340#32, "lrot.g32", .bc, fun p => .lrotG32 p.w1 p.w2 p.w3⟩,
    ⟨0x041#32, "rrot", .bc, fun p => .rrot p.w1 p.w2 p.w3⟩,
    ⟨0x141#32, "rrot.g1", .bc, fun p => .rrotG1 p.w1 p.w2 p.w3⟩,
    ⟨0x241#32, "rrot.g8", .bc, fun p => .rrotG8 p.w1 p.w2 p.w3⟩,
    ⟨0x341#32, "rrot.g32", .bc, fun p => .rrotG32 p.w1 p.w2 p.w3⟩,
    ⟨0x044#32, "lrot.w32", .vc32, fun p => .lrotW32 p.w1 p.w3⟩,
    ⟨0x045#32, "rrot.w32", .vc32, fun p => .rrotW32 p.w1 p.w3⟩,
    ⟨0x046#32, "lrot.w64", .vc64, fun p => .lrotW64 (joinWords p.w2 p.w1) p.w3⟩,
    ⟨0x047#32, "rrot.w64", .vc64, fun p => .rrotW64 (joinWords p.w2 p.w1) p.w3⟩ ]

/-- The rows of the windows. -/
def opRowsWindow : List OpRow :=
  [ ⟨0x050#32, "window", .bw, fun p => .window p.w1 p.w2 p.w3 p.w4⟩,
    ⟨0x250#32, "window.g8", .bw, fun p => .windowG8 p.w1 p.w2 p.w3 p.w4⟩,
    ⟨0x350#32, "window.g32", .bw, fun p => .windowG32 p.w1 p.w2 p.w3 p.w4⟩,
    ⟨0x054#32, "window.w32", .vw32, fun p => .windowW32 p.w1 p.w3 p.w4⟩,
    ⟨0x056#32, "window.w64", .vw64, fun p => .windowW64 (joinWords p.w2 p.w1) p.w3 p.w4⟩ ]

/-- The opcode map: forty rows, complete (R79). -/
def opcodeMap : List OpRow := opRowsBits ++ opRowsShift ++ opRowsRotate ++ opRowsWindow

/-- Why a packet is illegal (R78). Every one of them ends the command with ILLEGAL_CMD. -/
inductive DecodeError where
  /-- R78 item 1: `W[0][31:10]` is not 0. -/
  | reservedBits
  /-- R78 item 2: the operation code names no operation. -/
  | unknownOpcode
  /-- R78 items 3 and 4: the operation code does not take this GRAN. -/
  | badGranularity
  /-- R78 item 5: a word the format marks "must be 0" is not 0. -/
  | mustBeZero
deriving DecidableEq, Repr

/-- The decoder, total on every packet, in the order of R76: reserved bits, then the opcode map, then the words that
must be 0, then the operands. -/
def decode (p : Packet) : Except DecodeError Instr :=
  if p.reservedZero = false then .error .reservedBits
  else
    match opcodeMap.find? (fun r => r.word == p.w0) with
    | none => if p.opcodeAssigned then .error .badGranularity else .error .unknownOpcode
    | some r => if r.format.unusedZero p then .ok (r.bind p) else .error .mustBeZero

/-- Packets by format, the unused words 0 (R73, R74). -/
def packBI (w buf len bit : Word) : Packet := ⟨w, buf, len, bit, 0#32⟩
def packBC (w buf len c : Word) : Packet := ⟨w, buf, len, c, 0#32⟩
def packBW (w buf len start count : Word) : Packet := ⟨w, buf, len, start, count⟩
def packV32 (w x : Word) : Packet := ⟨w, x, 0#32, 0#32, 0#32⟩
def packV64 (w : Word) (x : DWord) : Packet := ⟨w, lowWord x, highWord x, 0#32, 0#32⟩
def packVC32 (w x c : Word) : Packet := ⟨w, x, 0#32, c, 0#32⟩
def packVC64 (w : Word) (x : DWord) (c : Word) : Packet := ⟨w, lowWord x, highWord x, c, 0#32⟩

/-- The encoder: the packet of a command, from the opcode map of R79 and the formats of R73 and R74. -/
def encode : Instr → Packet
  | .getbit buf len bit => packBI 0x10#32 buf len bit
  | .getbitw buf len bit => packBI 0x11#32 buf len bit
  | .setbit buf len bit => packBI 0x12#32 buf len bit
  | .setbitv buf len bit val => ⟨0x13#32, buf, len, bit, val⟩
  | .clearbit buf len bit => packBI 0x14#32 buf len bit
  | .flipbit buf len bit => packBI 0x15#32 buf len bit
  | .popcountW32 x => packV32 0x20#32 x
  | .popcountW64 x => packV64 0x21#32 x
  | .popcountW128 w0 w1 => ⟨0x22#32, lowWord w0, highWord w0, lowWord w1, highWord w1⟩
  | .parityW32 x => packV32 0x24#32 x
  | .parityW64 x => packV64 0x25#32 x
  | .lshift buf len c => packBC 0x030#32 buf len c
  | .lshiftG1 buf len c => packBC 0x130#32 buf len c
  | .lshiftG8 buf len c => packBC 0x230#32 buf len c
  | .lshiftG32 buf len c => packBC 0x330#32 buf len c
  | .rshift buf len c => packBC 0x031#32 buf len c
  | .rshiftG1 buf len c => packBC 0x131#32 buf len c
  | .rshiftG8 buf len c => packBC 0x231#32 buf len c
  | .rshiftG32 buf len c => packBC 0x331#32 buf len c
  | .lshiftW32 x c => packVC32 0x34#32 x c
  | .rshiftW32 x c => packVC32 0x35#32 x c
  | .lshiftW64 x c => packVC64 0x36#32 x c
  | .rshiftW64 x c => packVC64 0x37#32 x c
  | .lrot buf len c => packBC 0x040#32 buf len c
  | .lrotG1 buf len c => packBC 0x140#32 buf len c
  | .lrotG8 buf len c => packBC 0x240#32 buf len c
  | .lrotG32 buf len c => packBC 0x340#32 buf len c
  | .rrot buf len c => packBC 0x041#32 buf len c
  | .rrotG1 buf len c => packBC 0x141#32 buf len c
  | .rrotG8 buf len c => packBC 0x241#32 buf len c
  | .rrotG32 buf len c => packBC 0x341#32 buf len c
  | .lrotW32 x c => packVC32 0x44#32 x c
  | .rrotW32 x c => packVC32 0x45#32 x c
  | .lrotW64 x c => packVC64 0x46#32 x c
  | .rrotW64 x c => packVC64 0x47#32 x c
  | .window buf len start count => packBW 0x050#32 buf len start count
  | .windowG8 buf len start count => packBW 0x250#32 buf len start count
  | .windowG32 buf len start count => packBW 0x350#32 buf len start count
  | .windowW32 x start count => ⟨0x54#32, x, 0#32, start, count⟩
  | .windowW64 x start count => ⟨0x56#32, lowWord x, highWord x, start, count⟩

/-- The packet whose word `W[i]` is bits `32*i+31 .. 32*i` of `w` (log entry 8: R70 defines no serialisation, and
this is the host's numbering of an instruction's bits). -/
def packetOfNat (w : Nat) : Packet :=
  ⟨BitVec.ofNat 32 w, BitVec.ofNat 32 (w / 2 ^ 32), BitVec.ofNat 32 (w / 2 ^ 64), BitVec.ofNat 32 (w / 2 ^ 96),
   BitVec.ofNat 32 (w / 2 ^ 128)⟩

/-- The packet of an instruction given by its low `nbits` bits, every bit above them 0. -/
def tablePacket (nbits w : Nat) : Packet := packetOfNat (w % 2 ^ nbits)

/-- What the decoder reads from an instruction given as the opcode table numbers its bits. -/
def decodeTableWord (nbits w : Nat) : Option Instr :=
  match decode (tablePacket nbits w) with
  | .ok i => some i
  | .error _ => none

end Sys2Proof
end

