-- ==== Sys2Proof/Config.lean ====
section
/-! DEFINITION. What an implementation fixes (the three named parameters of R7) and the free values: what the spec
leaves open and a model must not choose. A free value has no body, so no proof can learn what it is. -/

namespace Sys2Proof

/-- The three named parameters of R7, "that a model takes as arguments". They stand in `State.params`, so that a
statement about every state is a statement about every choice of them; no step changes them. -/
structure Params where
  /-- `MAX_LEN`: the largest blob length in bytes the unit accepts. -/
  maxLen : Nat
  /-- `BLOB_BASE`: the first address of the region the unit may access. -/
  blobBase : Nat
  /-- `BLOB_SIZE`: the size in bytes of that region. -/
  blobSize : Nat
deriving DecidableEq, Repr

/-- The defaults of R7, which "impose no restriction". -/
def Params.standard : Params := { maxLen := 2 ^ 32 - 1, blobBase := 0, blobSize := 2 ^ 32 }

/-- The ranges of the three parameters (R7, and the table of open parameters after D35 in 92_eei_decisions.md, which
starts `BLOB_SIZE` at 1). -/
def Params.legal (p : Params) : Bool :=
  decide (17 ≤ p.maxLen) && decide (p.maxLen ≤ 2 ^ 32 - 1) &&
    decide (p.blobBase < 2 ^ 32) && decide (1 ≤ p.blobSize) && decide (p.blobBase + p.blobSize ≤ 2 ^ 32)

/-- FREE VALUE (R27, D27, U13; DESIGN CHOICE, log entry 1). The byte that address `a` holds before anything has
written it: "some arbitrary byte, the same at every read until it is written". Safe: nothing can be proved of it. -/
opaque Config.initialByte : Nat → Byte

/-- FREE VALUE (R271, R275, U5; log entry 7). The `k`-th byte drawn: a byte of the blob of a mutator that reset cut
short, of a blob a foreign write raced with, or one a foreign read of a blob in flight returned. Safe. -/
opaque Config.freeByte : Nat → Byte

/-- FREE VALUE (R275, U5; log entry 7). The RESULT of a command whose blob a foreign write raced with, by the number
of the draw. Safe. -/
opaque Config.freeResult : Nat → DWord

end Sys2Proof
end

