-- ==== Sys2Proof/Machine/State.lean ====
section
/-! DEFINITION. The state of the system, as plain data: everything 10_state.md R20 lists, the parameters of R7, and
the model's own fields that carry the host agent and the free values. -/

namespace Sys2Proof.Machine

/-- Which initial memory lies under the bytes a `Memory` lists (R27: "a model takes the initial memory as an argument
and never assumes it zero"). -/
inductive Background where
  /-- Nothing is known of the bytes never written: address `a` holds `Config.initialByte a`. -/
  | unspecified
  /-- The host has written `b` to every byte (it cleared its memory, say); a state to start tests from. -/
  | filled (b : Byte)
deriving DecidableEq, Repr

/-- Blob memory (R27): the bytes that differ from the background, addresses strictly rising (`Memory.wf`). -/
structure Memory where
  background : Background
  cells : List Host.Cell
deriving DecidableEq, Repr

/-- A response (R25, R77): STATUS 0 for a command that completed, else the code of its fault; RESULT the value the
operation returns, 0 if it returns none or faults. -/
structure Response where
  status : BitVec 8
  result : DWord
deriving DecidableEq, Repr

/-- What the host side can do next (R2, R22, R26, R48, R270). Addresses are naturals: a host can name a location
that does not exist, a command cannot. -/
inductive HostMove where
  /-- Offer a packet on the command channel; the offer waits while a command is in flight (R26). -/
  | issue (p : Packet)
  /-- Wait for the response of the command in flight, if there is one, and consume the response pending (R25). -/
  | await
  /-- The host, or another bus master, writes one byte of blob memory (R2, R48). -/
  | store (addr : Nat) (b : Byte)
  /-- The host, or another bus master, reads one byte of blob memory (R2, R48). -/
  | load (addr : Nat)
  /-- Reset arrives (R270, R271). -/
  | reset
deriving DecidableEq, Repr

/-- Where the MODEL stops. No command ends here: a fault of the unit is a response (R240, R243), so a next state. -/
inductive Fault where
  /-- The host names an address of 2^32 or above, which R27 says does not exist. Raised by the host's own `store`
  and `load` moves only. Safe: the spec gives such an access no meaning. -/
  | noSuchAddress (addr : Nat)
deriving DecidableEq, Repr

/-- Why an instruction has no meaning. No arm of `exec` answers with it: all forty commands are modelled. -/
inductive Refusal where
  /-- Raised by an arm of `exec` whose instruction has no meaning yet. Safe: the model stops. -/
  | notModelled (mnemonic : String)
deriving DecidableEq, Repr

/-- The state (R20). The first three fields are the spec's whole state; `params` is R7; the rest is the model's own. -/
structure State where
  /-- Blob memory `MEM[a]` (R20, R27). -/
  mem : Memory
  /-- The command in flight, `W[0..4]`, or none (R20, R26). -/
  inFlight : Option Packet
  /-- The response delivered and not yet consumed, `STATUS` and `RESULT`, or none (R20, R25). -/
  response : Option Response
  /-- `MAX_LEN`, `BLOB_BASE`, `BLOB_SIZE` (R7). -/
  params : Params
  /-- MODEL: another agent has written a byte of the blob in flight (R275; log entry 6). -/
  raced : Bool
  /-- MODEL: what the host does next, oldest first (R2, R22; log entry 3). -/
  moves : List HostMove
  /-- MODEL: the responses delivered and no longer pending, oldest first (R22, R245; log entry 4). -/
  record : List Response
  /-- MODEL: the bytes the host's own reads returned, oldest first (R48; log entry 4). -/
  reads : List Byte
  /-- MODEL: how many free values have been drawn (R271, R275; log entry 7). -/
  draws : Nat
deriving DecidableEq, Repr

/-- The state right after reset (R29, R270): nothing in flight, no response pending, memory not touched by the reset
and of unspecified content (R27), the parameters at the defaults of R7, the host yet to move. -/
def State.reset : State :=
  { mem := { background := .unspecified, cells := [] }
    inFlight := none
    response := none
    params := Params.standard
    raced := false
    moves := []
    record := []
    reads := []
    draws := 0 }

end Sys2Proof.Machine
end

