-- ==== Sys2Proof/Machine/Flags.lean ====
section
/-! DEFINITION. The unit has no flags and no condition codes (R23): no command computes one. The only status is the
STATUS field of a response, whose codes stand here (R241). -/

namespace Sys2Proof.Machine

/-- STATUS of a command that completed (R77, R241). -/
def statusDone : BitVec 8 := 0x00#8

/-- The fault codes of R241. Codes 0x07 to 0xFF are never produced. -/
def faultCode : CmdFault → BitVec 8
  | .illegalCmd => 0x01#8
  | .badLen => 0x02#8
  | .badGran => 0x03#8
  | .badBitIndex => 0x04#8
  | .badAmount => 0x05#8
  | .badCount => 0x06#8

end Sys2Proof.Machine
end

