-- ==== Sys2Proof/Machine/Ops.lean ====
section
/-! DEFINITION. The named operations: bytes and words of blob memory (R41, R42), bits and values of a blob (R11),
ending a command with a response (R25) or with a fault (R12, R243), and the command channel (R26). -/

namespace Sys2Proof.Machine

/-! ### Bytes of blob memory -/

/-- What an address holds that is not listed (R27): the byte of the initial memory. -/
def Background.byte : Background → Nat → Byte
  | .unspecified, a => Config.initialByte a
  | .filled b, _ => b

/-- The byte a list of cells gives an address, if it lists it. -/
def lookupCell : List Host.Cell → Nat → Option Byte
  | [], _ => none
  | (b, v) :: rest, a => if b = a then some v else lookupCell rest a

/-- A list of cells without the address `a`. -/
def dropCell (a : Nat) : List Host.Cell → List Host.Cell
  | [] => []
  | (b, w) :: rest => if b = a then dropCell a rest else (b, w) :: dropCell a rest

/-- A list of cells with `v` at `a`, put before the first higher address. -/
def insertCell (a : Nat) (v : Byte) : List Host.Cell → List Host.Cell
  | [] => [(a, v)]
  | (b, w) :: rest => if a < b then (a, v) :: (b, w) :: rest else (b, w) :: insertCell a v rest

/-- Store `v` at `a`. `u` is what an unlisted `a` reads as: writing it leaves `a` unlisted, so that equal memories are
equal lists. -/
def putCell (u : Byte) (a : Nat) (v : Byte) (l : List Host.Cell) : List Host.Cell :=
  if v = u then dropCell a l else insertCell a v (dropCell a l)

/-- Addresses rise from `lo` on, lie below 2^32, and no entry repeats the background. -/
def cellsOk (bg : Background) : Nat → List Host.Cell → Bool
  | _, [] => true
  | lo, (a, v) :: rest => decide (lo ≤ a) && decide (a < 2 ^ 32) && decide (v ≠ bg.byte a) && cellsOk bg (a + 1) rest

/-- The canonical form of a memory. -/
def Memory.wf (m : Memory) : Bool := cellsOk m.background 0 m.cells

/-- `MemRead(addr, 1)` (R41). -/
def Memory.read (m : Memory) (a : Nat) : Byte := (lookupCell m.cells a).getD (m.background.byte a)

/-- `MemWrite(addr, 1, v)` (R41): "changes no other location". -/
def Memory.write (m : Memory) (a : Nat) (v : Byte) : Memory :=
  { m with cells := putCell (m.background.byte a) a v m.cells }

/-- `MemRead(addr, 4)`: four byte accesses, little-endian (R42, R43). -/
def Memory.readWord (m : Memory) (a : Nat) : Word :=
  m.read (a + 3) ++ m.read (a + 2) ++ m.read (a + 1) ++ m.read a

/-- `MemWrite(addr, 4, v)`: four byte accesses, little-endian (R42, R43). -/
def Memory.writeWord (m : Memory) (a : Nat) (v : Word) : Memory :=
  (((m.write a (v.extractLsb' 0 8)).write (a + 1) (v.extractLsb' 8 8)).write (a + 2) (v.extractLsb' 16 8)).write
    (a + 3) (v.extractLsb' 24 8)

/-- Write `f 0 .. f (k-1)` to the `k` bytes from `a` on. -/
def Memory.fill (m : Memory) (a : Nat) (f : Nat → Byte) : Nat → Memory
  | 0 => m
  | k + 1 => (m.fill a f k).write (a + k) (f k)

/-! ### Blobs (R11) -/

/-- `V`: the `len` bytes at `buf` as one little-endian natural, `sum of B[k] * 256^k` (R11, R42). -/
def Memory.blobValue (m : Memory) (buf : Nat) : Nat → Nat
  | 0 => 0
  | k + 1 => m.blobValue buf k + (m.read (buf + k)).toNat * 256 ^ k

/-- `for k in 0 .. len-1: B[k] <- V[8k+7 : 8k]` (R140, R170). -/
def Memory.setBlob (m : Memory) (buf len V : Nat) : Memory :=
  m.fill buf (fun k => BitVec.ofNat 8 (V >>> (8 * k))) len

/-- `bitof(i)`: bit `i mod 8` of byte `i div 8` of the blob at `buf` (R11, R100). -/
def Memory.bitAt (m : Memory) (buf i : Nat) : Bool := (m.read (buf + i / 8)).getLsbD (i % 8)

/-- The mask `1 << (i mod 8)` of a bit inside its byte (R100, R103). -/
def bitMask (i : Nat) : Byte := 1#8 <<< (i % 8)

/-- The byte with the addressed bit forced to `v` (R103 to R105). -/
def putBit (b : Byte) (i : Nat) (v : Bool) : Byte := if v then b ||| bitMask i else b &&& ~~~ bitMask i

/-- The memory action of `setbitv`, without its checks (R104, R142): one byte is read, changed and written. -/
def Memory.setBitAt (m : Memory) (buf i : Nat) (v : Bool) : Memory :=
  m.write (buf + i / 8) (putBit (m.read (buf + i / 8)) i v)

/-! ### Ending a command -/

/-- The answer of a unit step or a host move. -/
abbrev Answer := Host.Outcome State Fault Refusal

/-- The state with another blob memory. -/
def State.withMem (s : State) (m : Memory) : State := { s with mem := m }

/-- Deliver the response: "the command in flight ends with its response" (R20, R26), and nothing of the command stays
in the unit (R24, R28). -/
def State.deliver (s : State) (r : Response) : State :=
  { s with inFlight := none, response := some r, raced := false }

/-- A command completes: STATUS 0 and its RESULT (R77). -/
def complete (s : State) (result : DWord) : Answer := .next (s.deliver { status := statusDone, result := result })

/-- TAKING A FAULT (R12, R240, R243): the command ends with STATUS the fault's code and RESULT 0; no byte is written,
nothing is saved, no mode changes, control goes nowhere. There is no return (R245): the unit is at once ready for the
next command. -/
def raise (f : CmdFault) (s : State) : Answer := .next (s.deliver { status := faultCode f, result := 0#64 })

/-- The checks of a command stand before its effect (R12, R240): the first fault ends it, else the body runs. -/
def guarded (checks : Option CmdFault) (s : State) (body : Answer) : Answer :=
  match checks with
  | some f => raise f s
  | none => body

/-! ### The command and response channels -/

/-- The response pending, if there is one, is pending no more: the host has it and keeps it (R22, R25, R245). -/
def State.consume (s : State) : State :=
  match s.response with
  | none => s
  | some r => { s with response := none, record := s.record ++ [r] }

/-- The unit accepts a packet, copied whole (R20, R26, R51). The response before it was an event that is over. -/
def State.accept (s : State) (p : Packet) : State := { s.consume with inFlight := some p, raced := false }

end Sys2Proof.Machine
end

