-- ==== Sys2Proof/Machine/Operands.lean ====
section
/-! DEFINITION. How operands are read (R75), which commands name a blob and which write it (R46, R73), and the checks
at the head of the rules in the order of R242. -/

namespace Sys2Proof.Machine

/-! ### Operand forms -/

/-- The amount `c = sext_32(W[3])`, two's complement (R75). -/
def amount (c : Word) : Int := c.toInt

/-- The blob of a buffer-format command: its address and length (R73). None for a value format (R74). -/
def blobOf : Instr → Option (Nat × Nat)
  | .getbit buf len _ => some (buf.toNat, len.toNat)
  | .getbitw buf len _ => some (buf.toNat, len.toNat)
  | .setbit buf len _ => some (buf.toNat, len.toNat)
  | .setbitv buf len _ _ => some (buf.toNat, len.toNat)
  | .clearbit buf len _ => some (buf.toNat, len.toNat)
  | .flipbit buf len _ => some (buf.toNat, len.toNat)
  | .popcountW32 _ => none
  | .popcountW64 _ => none
  | .popcountW128 _ _ => none
  | .parityW32 _ => none
  | .parityW64 _ => none
  | .lshift buf len _ => some (buf.toNat, len.toNat)
  | .lshiftG1 buf len _ => some (buf.toNat, len.toNat)
  | .lshiftG8 buf len _ => some (buf.toNat, len.toNat)
  | .lshiftG32 buf len _ => some (buf.toNat, len.toNat)
  | .rshift buf len _ => some (buf.toNat, len.toNat)
  | .rshiftG1 buf len _ => some (buf.toNat, len.toNat)
  | .rshiftG8 buf len _ => some (buf.toNat, len.toNat)
  | .rshiftG32 buf len _ => some (buf.toNat, len.toNat)
  | .lshiftW32 _ _ => none
  | .rshiftW32 _ _ => none
  | .lshiftW64 _ _ => none
  | .rshiftW64 _ _ => none
  | .lrot buf len _ => some (buf.toNat, len.toNat)
  | .lrotG1 buf len _ => some (buf.toNat, len.toNat)
  | .lrotG8 buf len _ => some (buf.toNat, len.toNat)
  | .lrotG32 buf len _ => some (buf.toNat, len.toNat)
  | .rrot buf len _ => some (buf.toNat, len.toNat)
  | .rrotG1 buf len _ => some (buf.toNat, len.toNat)
  | .rrotG8 buf len _ => some (buf.toNat, len.toNat)
  | .rrotG32 buf len _ => some (buf.toNat, len.toNat)
  | .lrotW32 _ _ => none
  | .rrotW32 _ _ => none
  | .lrotW64 _ _ => none
  | .rrotW64 _ _ => none
  | .window buf len _ _ => some (buf.toNat, len.toNat)
  | .windowG8 buf len _ _ => some (buf.toNat, len.toNat)
  | .windowG32 buf len _ _ => some (buf.toNat, len.toNat)
  | .windowW32 _ _ _ => none
  | .windowW64 _ _ _ => none

/-- The commands that write memory (R46): the four BitAddress mutators and the blob shifts and rotates. -/
def writesMemory : Instr → Bool
  | .getbit _ _ _ => false
  | .getbitw _ _ _ => false
  | .setbit _ _ _ => true
  | .setbitv _ _ _ _ => true
  | .clearbit _ _ _ => true
  | .flipbit _ _ _ => true
  | .popcountW32 _ => false
  | .popcountW64 _ => false
  | .popcountW128 _ _ => false
  | .parityW32 _ => false
  | .parityW64 _ => false
  | .lshift _ _ _ => true
  | .lshiftG1 _ _ _ => true
  | .lshiftG8 _ _ _ => true
  | .lshiftG32 _ _ _ => true
  | .rshift _ _ _ => true
  | .rshiftG1 _ _ _ => true
  | .rshiftG8 _ _ _ => true
  | .rshiftG32 _ _ _ => true
  | .lshiftW32 _ _ => false
  | .rshiftW32 _ _ => false
  | .lshiftW64 _ _ => false
  | .rshiftW64 _ _ => false
  | .lrot _ _ _ => true
  | .lrotG1 _ _ _ => true
  | .lrotG8 _ _ _ => true
  | .lrotG32 _ _ _ => true
  | .rrot _ _ _ => true
  | .rrotG1 _ _ _ => true
  | .rrotG8 _ _ _ => true
  | .rrotG32 _ _ _ => true
  | .lrotW32 _ _ => false
  | .rrotW32 _ _ => false
  | .lrotW64 _ _ => false
  | .rrotW64 _ _ => false
  | .window _ _ _ _ => false
  | .windowG8 _ _ _ _ => false
  | .windowG32 _ _ _ _ => false
  | .windowW32 _ _ _ => false
  | .windowW64 _ _ _ => false

/-! ### Checks -/

/-- One check: the fault, if its condition holds. -/
def faultIf (c : Prop) [Decidable c] (f : CmdFault) : Option CmdFault := if c then some f else none

/-- Exactly one fault is reported, the first in the order of the checks (R242). -/
def firstFault : List (Option CmdFault) → Option CmdFault
  | [] => none
  | some f :: _ => some f
  | none :: rest => firstFault rest

/-- `admit_blob` (R44). -/
def admitBlob (p : Params) (buf len : Word) : Option CmdFault :=
  firstFault
    [ faultIf (len.toNat > p.maxLen) .badLen,
      faultIf (buf.toNat + len.toNat > 2 ^ 32) .badLen,
      faultIf (len.toNat > 0 ∧ (buf.toNat < p.blobBase ∨ buf.toNat + len.toNat > p.blobBase + p.blobSize)) .badLen ]

/-- `len = 0` in an operation that needs a bit to exist (R102, R201, R246). -/
def emptyCheck (len : Word) : Option CmdFault := faultIf (len.toNat = 0) .badLen

/-- The 32-bit strategy on a length that is not a multiple of 4 (R140, R170, R201). -/
def granCheck (g : Gran) (len : Word) : Option CmdFault := faultIf (g = .g32 ∧ len.toNat % 4 ≠ 0) .badGran

/-- A bit index out of range in a non-wrapping accessor (R101, R103 to R106). -/
def bitCheck (len bit : Word) : Option CmdFault := faultIf (8 * len.toNat ≤ bit.toNat) .badBitIndex

/-- A negative shift amount (R140, R151 to R154). -/
def amountCheck (c : Word) : Option CmdFault := faultIf (amount c < 0) .badAmount

/-- A window count outside 1 to 32 (R201, R204, R205). -/
def countCheck (count : Word) : Option CmdFault := faultIf (count.toNat < 1 ∨ 32 < count.toNat) .badCount

/-- A window of more bits than the blob has (R201, conflict C3). -/
def countFits (len count : Word) : Option CmdFault := faultIf (8 * len.toNat < count.toNat) .badCount

/-- The checks of `getbit`, `setbit`, `setbitv`, `clearbit`, `flipbit` (R100). -/
def bitChecks (p : Params) (buf len bit : Word) : Option CmdFault :=
  firstFault [admitBlob p buf len, bitCheck len bit]

/-- The checks of `getbitw` (R100, R102). -/
def wrapChecks (p : Params) (buf len : Word) : Option CmdFault := firstFault [admitBlob p buf len, emptyCheck len]

/-- `shift_checks` (R140). -/
def shiftChecks (p : Params) (g : Gran) (buf len c : Word) : Option CmdFault :=
  firstFault [admitBlob p buf len, granCheck g len, amountCheck c]

/-- `rot_checks` (R170). -/
def rotChecks (p : Params) (g : Gran) (buf len : Word) : Option CmdFault :=
  firstFault [admitBlob p buf len, granCheck g len]

/-- `window_checks` (R201). -/
def windowChecks (p : Params) (g : Gran) (buf len count : Word) : Option CmdFault :=
  firstFault [admitBlob p buf len, emptyCheck len, granCheck g len, countCheck count, countFits len count]

end Sys2Proof.Machine
end

