-- ==== Sys2Proof/Machine/Reference.lean ====
section
/-! DEFINITION. The reference functions: shifts and rotates of an n-bit natural (R13), population count and parity
(R120), the window (R200). They are the meaning of the operations; the strategies are ways of computing them. -/

namespace Sys2Proof.Machine

/-- `SHL(V, n, a)` (R13). -/
def shl (V n a : Nat) : Nat := if a ≥ n then 0 else (V <<< a) % 2 ^ n

/-- `SHR(V, n, a)` (R13). -/
def shr (V n a : Nat) : Nat := if a ≥ n then 0 else V >>> a

/-- `ROL(V, n, e)`, for `0 <= e < n` (R13). -/
def rol (V n e : Nat) : Nat := ((V <<< e) ||| (V >>> (n - e))) % 2 ^ n

/-- `ROR(V, n, e)`, for `0 <= e < n` (R13). -/
def ror (V n e : Nat) : Nat := ((V >>> e) ||| (V <<< (n - e))) % 2 ^ n

/-- `c mod n`, the non-negative residue (R8, R172), for `n > 0`. -/
def residue (c : Int) (n : Nat) : Nat := (c % (n : Int)).toNat

/-- `ROTL_N(x, k)` (R171). -/
def rotl (x N : Nat) (k : Int) : Nat := rol x N (residue k N)

/-- `ROTR_N(x, k)` (R171). -/
def rotr (x N : Nat) (k : Int) : Nat := ror x N (residue k N)

/-- `mask(k)` (R9). -/
def mask (k : Nat) : Nat := 2 ^ k - 1

/-- `WIN(V, n, start, count)`, for `n > 0` (R200). -/
def win (V n start count : Nat) : Nat := ror V n (start % n) &&& mask count

/-- `POP_N(u) = u[0] + u[1] + ... + u[N-1]` (R120). -/
def pop : Nat → Nat → Nat
  | 0, _ => 0
  | N + 1, u => pop N u + (u.testBit N).toNat

/-- `PAR_N(u) = u[0] ^ u[1] ^ ... ^ u[N-1]` (R120). -/
def par : Nat → Nat → Bool
  | 0, _ => false
  | N + 1, u => xor (par N u) (u.testBit N)

/-- A natural as RESULT, zero-extended to 64 bits (R25, R77). -/
def resultOf (v : Nat) : DWord := BitVec.ofNat 64 v

end Sys2Proof.Machine
end

