-- ==== Sys2Proof/Machine/BitAddress.lean ====
section
/-! DEFINITION. BitAddress: `getbit`, `getbitw`, `setbit`, `setbitv`, `clearbit`, `flipbit` (R100 to R106). -/

namespace Sys2Proof.Machine

/-- `RESULT <- (byte >> (i mod 8)) & 1` for the byte at `buf + (i div 8)` (R100, R101). -/
def readBit (buf : Word) (i : Nat) (s : State) : Answer :=
  complete s (((s.mem.read (buf.toNat + i / 8) >>> (i % 8)) &&& 1#8).zeroExtend 64)

/-- Read the byte that holds bit `i`, change it with `f`, write it back: exactly one byte (R46, R100). -/
def updateByte (buf : Word) (i : Nat) (f : Byte → Byte) (s : State) : Answer :=
  complete (s.withMem (s.mem.write (buf.toNat + i / 8) (f (s.mem.read (buf.toNat + i / 8))))) 0#64

/-- R101. -/
def execGetbit (buf len bit : Word) (s : State) : Answer :=
  guarded (bitChecks s.params buf len bit) s (readBit buf bit.toNat s)

/-- R102: the index modulo the blob's width. -/
def execGetbitw (buf len bit : Word) (s : State) : Answer :=
  guarded (wrapChecks s.params buf len) s (readBit buf (bit.toNat % (8 * len.toNat)) s)

/-- R103. -/
def execSetbit (buf len bit : Word) (s : State) : Answer :=
  guarded (bitChecks s.params buf len bit) s (updateByte buf bit.toNat (fun b => b ||| bitMask bit.toNat) s)

/-- R104: the bit becomes `val != 0`. -/
def execSetbitv (buf len bit val : Word) (s : State) : Answer :=
  guarded (bitChecks s.params buf len bit) s
    (updateByte buf bit.toNat (fun b => putBit b bit.toNat (decide (val ≠ 0#32))) s)

/-- R105. -/
def execClearbit (buf len bit : Word) (s : State) : Answer :=
  guarded (bitChecks s.params buf len bit) s (updateByte buf bit.toNat (fun b => b &&& ~~~ bitMask bit.toNat) s)

/-- R106. -/
def execFlipbit (buf len bit : Word) (s : State) : Answer :=
  guarded (bitChecks s.params buf len bit) s (updateByte buf bit.toNat (fun b => b ^^^ bitMask bit.toNat) s)

end Sys2Proof.Machine
end

