-- ==== Sys2Proof/Machine/PopulationCounter.lean ====
section
/-! DEFINITION. PopulationCounter: `popcount.w32`, `.w64`, `.w128`, `parity.w32`, `.w64` (R120 to R125). No check, no
memory. -/

namespace Sys2Proof.Machine

/-- R121. -/
def execPopcountW32 (x : Word) (s : State) : Answer := complete s (resultOf (pop 32 x.toNat))

/-- R122. -/
def execPopcountW64 (x : DWord) (s : State) : Answer := complete s (resultOf (pop 64 x.toNat))

/-- R123: the two words as one 128-bit quantity. -/
def execPopcountW128 (w0 w1 : DWord) (s : State) : Answer :=
  complete s (resultOf (pop 64 w0.toNat + pop 64 w1.toNat))

/-- R124. -/
def execParityW32 (x : Word) (s : State) : Answer := complete s (resultOf (par 32 x.toNat).toNat)

/-- R125. -/
def execParityW64 (x : DWord) (s : State) : Answer := complete s (resultOf (par 64 x.toNat).toNat)

end Sys2Proof.Machine
end

