-- ==== Sys2Proof/Machine/Rotate.lean ====
section
/-! DEFINITION. The rotates: the blob forms of every granularity (R170 to R179, R223, R224) and the value forms (R171,
R181 to R184). No amount faults. -/

namespace Sys2Proof.Machine

/-- A blob rotate (R170): the checks, then nothing at `len = 0` (R172), else the reference function at the reduced
amount. -/
def rotateBlob (g : Gran) (f : Nat → Nat → Nat → Nat) (buf len c : Word) (s : State) : Answer :=
  guarded (rotChecks s.params g buf len) s
    (if len.toNat = 0 then complete s 0#64
     else complete (s.withMem (s.mem.setBlob buf.toNat len.toNat
       (f (s.mem.blobValue buf.toNat len.toNat) (8 * len.toNat) (residue (amount c) (8 * len.toNat))))) 0#64)

/-- R223. -/
def execLrot (buf len c : Word) (s : State) : Answer := rotateBlob .auto rol buf len c s

/-- R174. -/
def execLrotG1 (buf len c : Word) (s : State) : Answer := rotateBlob .g1 rol buf len c s

/-- R176. -/
def execLrotG8 (buf len c : Word) (s : State) : Answer := rotateBlob .g8 rol buf len c s

/-- R178. -/
def execLrotG32 (buf len c : Word) (s : State) : Answer := rotateBlob .g32 rol buf len c s

/-- R224. -/
def execRrot (buf len c : Word) (s : State) : Answer := rotateBlob .auto ror buf len c s

/-- R175. -/
def execRrotG1 (buf len c : Word) (s : State) : Answer := rotateBlob .g1 ror buf len c s

/-- R177. -/
def execRrotG8 (buf len c : Word) (s : State) : Answer := rotateBlob .g8 ror buf len c s

/-- R179. -/
def execRrotG32 (buf len c : Word) (s : State) : Answer := rotateBlob .g32 ror buf len c s

/-- R181. -/
def execLrotW32 (x c : Word) (s : State) : Answer := complete s (resultOf (rotl x.toNat 32 (amount c)))

/-- R182. -/
def execRrotW32 (x c : Word) (s : State) : Answer := complete s (resultOf (rotr x.toNat 32 (amount c)))

/-- R183. -/
def execLrotW64 (x : DWord) (c : Word) (s : State) : Answer := complete s (resultOf (rotl x.toNat 64 (amount c)))

/-- R184. -/
def execRrotW64 (x : DWord) (c : Word) (s : State) : Answer := complete s (resultOf (rotr x.toNat 64 (amount c)))

end Sys2Proof.Machine
end

