-- ==== Sys2Proof/Machine/Shift.lean ====
section
/-! DEFINITION. The shifts: the blob forms of every granularity (R140 to R147, R221, R222) and the value forms (R151 to
R154). The granularity changes the checks, never the final content (R150, R225). -/

namespace Sys2Proof.Machine

/-- A blob shift (R140): the checks, then the blob holds the value of the reference function. -/
def shiftBlob (g : Gran) (f : Nat → Nat → Nat → Nat) (buf len c : Word) (s : State) : Answer :=
  guarded (shiftChecks s.params g buf len c) s
    (complete (s.withMem (s.mem.setBlob buf.toNat len.toNat
      (f (s.mem.blobValue buf.toNat len.toNat) (8 * len.toNat) (amount c).toNat))) 0#64)

/-- A value shift (R151 to R154): an amount of the width or more gives 0, a negative one faults. -/
def shiftValue (N : Nat) (f : Nat → Nat → Nat → Nat) (x : Nat) (c : Word) (s : State) : Answer :=
  guarded (amountCheck c) s (complete s (resultOf (f x N (amount c).toNat)))

/-- R221. -/
def execLshift (buf len c : Word) (s : State) : Answer := shiftBlob .auto shl buf len c s

/-- R142. -/
def execLshiftG1 (buf len c : Word) (s : State) : Answer := shiftBlob .g1 shl buf len c s

/-- R144. -/
def execLshiftG8 (buf len c : Word) (s : State) : Answer := shiftBlob .g8 shl buf len c s

/-- R146. -/
def execLshiftG32 (buf len c : Word) (s : State) : Answer := shiftBlob .g32 shl buf len c s

/-- R222. -/
def execRshift (buf len c : Word) (s : State) : Answer := shiftBlob .auto shr buf len c s

/-- R143. -/
def execRshiftG1 (buf len c : Word) (s : State) : Answer := shiftBlob .g1 shr buf len c s

/-- R145. -/
def execRshiftG8 (buf len c : Word) (s : State) : Answer := shiftBlob .g8 shr buf len c s

/-- R147. -/
def execRshiftG32 (buf len c : Word) (s : State) : Answer := shiftBlob .g32 shr buf len c s

/-- R151. -/
def execLshiftW32 (x c : Word) (s : State) : Answer := shiftValue 32 shl x.toNat c s

/-- R152. -/
def execRshiftW32 (x c : Word) (s : State) : Answer := shiftValue 32 shr x.toNat c s

/-- R153. -/
def execLshiftW64 (x : DWord) (c : Word) (s : State) : Answer := shiftValue 64 shl x.toNat c s

/-- R154. -/
def execRshiftW64 (x : DWord) (c : Word) (s : State) : Answer := shiftValue 64 shr x.toNat c s

end Sys2Proof.Machine
end

