-- ==== Sys2Proof/Machine/Window.lean ====
section
/-! DEFINITION. The windows: the blob forms (R200 to R203, R227) and the value forms (R204, R205). Nothing is written. -/

namespace Sys2Proof.Machine

/-- A blob window (R200, R201). -/
def windowBlob (g : Gran) (buf len start count : Word) (s : State) : Answer :=
  guarded (windowChecks s.params g buf len count) s
    (complete s (resultOf (win (s.mem.blobValue buf.toNat len.toNat) (8 * len.toNat) start.toNat count.toNat)))

/-- R227. -/
def execWindow (buf len start count : Word) (s : State) : Answer := windowBlob .auto buf len start count s

/-- R202. -/
def execWindowG8 (buf len start count : Word) (s : State) : Answer := windowBlob .g8 buf len start count s

/-- R203. -/
def execWindowG32 (buf len start count : Word) (s : State) : Answer := windowBlob .g32 buf len start count s

/-- R204. -/
def execWindowW32 (x start count : Word) (s : State) : Answer :=
  guarded (countCheck count) s (complete s (resultOf (rotr x.toNat 32 start.toNat &&& mask count.toNat)))

/-- R205: at most 32 bits, though the operand is 64. -/
def execWindowW64 (x : DWord) (start count : Word) (s : State) : Answer :=
  guarded (countCheck count) s (complete s (resultOf (rotr x.toNat 64 start.toNat &&& mask count.toNat)))

end Sys2Proof.Machine
end

