-- ==== Sys2Proof/Machine/Dispatch.lean ====
section
/-! DEFINITION. The dispatch: one arm per constructor of `Instr`, one meaning per arm. -/

namespace Sys2Proof.Machine

/-- `exec : Command x MEM -> Response x MEM` of R20: run one decoded command and deliver its response. -/
def exec (i : Instr) (s : State) : Host.Outcome State Fault Refusal :=
  match i with
  | .getbit buf len bit => Sys2Proof.Machine.execGetbit buf len bit s
  | .getbitw buf len bit => Sys2Proof.Machine.execGetbitw buf len bit s
  | .setbit buf len bit => Sys2Proof.Machine.execSetbit buf len bit s
  | .setbitv buf len bit val => Sys2Proof.Machine.execSetbitv buf len bit val s
  | .clearbit buf len bit => Sys2Proof.Machine.execClearbit buf len bit s
  | .flipbit buf len bit => Sys2Proof.Machine.execFlipbit buf len bit s
  | .popcountW32 x => Sys2Proof.Machine.execPopcountW32 x s
  | .popcountW64 x => Sys2Proof.Machine.execPopcountW64 x s
  | .popcountW128 w0 w1 => Sys2Proof.Machine.execPopcountW128 w0 w1 s
  | .parityW32 x => Sys2Proof.Machine.execParityW32 x s
  | .parityW64 x => Sys2Proof.Machine.execParityW64 x s
  | .lshift buf len c => Sys2Proof.Machine.execLshift buf len c s
  | .lshiftG1 buf len c => Sys2Proof.Machine.execLshiftG1 buf len c s
  | .lshiftG8 buf len c => Sys2Proof.Machine.execLshiftG8 buf len c s
  | .lshiftG32 buf len c => Sys2Proof.Machine.execLshiftG32 buf len c s
  | .rshift buf len c => Sys2Proof.Machine.execRshift buf len c s
  | .rshiftG1 buf len c => Sys2Proof.Machine.execRshiftG1 buf len c s
  | .rshiftG8 buf len c => Sys2Proof.Machine.execRshiftG8 buf len c s
  | .rshiftG32 buf len c => Sys2Proof.Machine.execRshiftG32 buf len c s
  | .lshiftW32 x c => Sys2Proof.Machine.execLshiftW32 x c s
  | .rshiftW32 x c => Sys2Proof.Machine.execRshiftW32 x c s
  | .lshiftW64 x c => Sys2Proof.Machine.execLshiftW64 x c s
  | .rshiftW64 x c => Sys2Proof.Machine.execRshiftW64 x c s
  | .lrot buf len c => Sys2Proof.Machine.execLrot buf len c s
  | .lrotG1 buf len c => Sys2Proof.Machine.execLrotG1 buf len c s
  | .lrotG8 buf len c => Sys2Proof.Machine.execLrotG8 buf len c s
  | .lrotG32 buf len c => Sys2Proof.Machine.execLrotG32 buf len c s
  | .rrot buf len c => Sys2Proof.Machine.execRrot buf len c s
  | .rrotG1 buf len c => Sys2Proof.Machine.execRrotG1 buf len c s
  | .rrotG8 buf len c => Sys2Proof.Machine.execRrotG8 buf len c s
  | .rrotG32 buf len c => Sys2Proof.Machine.execRrotG32 buf len c s
  | .lrotW32 x c => Sys2Proof.Machine.execLrotW32 x c s
  | .rrotW32 x c => Sys2Proof.Machine.execRrotW32 x c s
  | .lrotW64 x c => Sys2Proof.Machine.execLrotW64 x c s
  | .rrotW64 x c => Sys2Proof.Machine.execRrotW64 x c s
  | .window buf len start count => Sys2Proof.Machine.execWindow buf len start count s
  | .windowG8 buf len start count => Sys2Proof.Machine.execWindowG8 buf len start count s
  | .windowG32 buf len start count => Sys2Proof.Machine.execWindowG32 buf len start count s
  | .windowW32 x start count => Sys2Proof.Machine.execWindowW32 x start count s
  | .windowW64 x start count => Sys2Proof.Machine.execWindowW64 x start count s

end Sys2Proof.Machine
end

