-- ==== Sys2Proof/Machine/Host.lean ====
section
/-! DEFINITION. The unit's turn and the host's moves: running the command in flight (R20, R76), the command channel (R26),
the host's own memory accesses (R2, R48), a race on a blob in flight (R275), reset (R270, R271). -/

namespace Sys2Proof.Machine

/-- The command would complete: its response would have STATUS 0. Its checks read only operands and parameters, so
what memory holds does not matter. -/
def completes (i : Instr) (s : State) : Bool :=
  match exec i s with
  | .next t => decide ((t.response.map Response.status) = some statusDone)
  | .fault _ => false
  | .refused _ => false

/-- The instruction in flight, if the packet in flight is legal. -/
def State.current (s : State) : Option Instr :=
  match s.inFlight with
  | none => none
  | some p =>
    match decode p with
    | .ok i => some i
    | .error _ => none

/-- The blob in flight (R275): that of the command in flight if it will access memory, which a command that faults
never does (R240, R243). -/
def State.claimed (s : State) : Option (Nat × Nat) :=
  match s.current with
  | none => none
  | some i => if completes i s then blobOf i else none

/-- The address belongs to the blob in flight. -/
def State.claims (s : State) (a : Nat) : Bool :=
  match s.claimed with
  | none => false
  | some (buf, len) => decide (buf ≤ a ∧ a < buf + len)

/-- Every byte of a blob becomes a draw: bytes `d, d+1, ...` of the free values. -/
def Memory.scramble (m : Memory) (blob : Nat × Nat) (d : Nat) : Memory :=
  m.fill blob.1 (fun k => Config.freeByte (d + k)) blob.2

/-- What a race leaves (R275, U5): "the final content of the whole blob and the RESULT of the command are
unspecified". The unit "does not detect this and does not fault". -/
def raceOutcome (blob : Nat × Nat) (t : State) : State :=
  { t with
    mem := t.mem.scramble blob t.draws
    response := some { status := statusDone, result := Config.freeResult (t.draws + blob.2) }
    draws := t.draws + blob.2 + 1 }

/-- The end of a command, the race of R275 included. -/
def settleRace (s : State) (out : Answer) : Answer :=
  if s.raced then
    match s.claimed, out with
    | some blob, .next t => .next (raceOutcome blob t)
    | _, o => o
  else out

/-- Run the packet in flight: decode, then the command, or ILLEGAL_CMD (R76, R78). -/
def runPacket (p : Packet) (s : State) : Answer :=
  match decode p with
  | .ok i => settleRace s (exec i s)
  | .error _ => raise .illegalCmd s

/-- The unit's turn (R20): it takes the command in flight and delivers its response. An idle unit waits (R270). -/
def unitTurn (s : State) : Answer :=
  match s.inFlight with
  | none => .next s
  | some p => runPacket p s

/-- The host writes a byte (R2, R48). Inside the blob in flight it breaks R275, and the command is raced. -/
def hostStore (a : Nat) (b : Byte) (s : State) : Answer :=
  if a < 2 ^ 32 then .next { s with mem := s.mem.write a b, raced := s.raced || s.claims a }
  else .fault (.noSuchAddress a)

/-- The host reads a byte (R2, R48): the byte last written, no side effect (R27, R40). Inside the blob in flight it
"may see any intermediate content" (R275), a draw (U5). -/
def hostLoad (a : Nat) (s : State) : Answer :=
  if a < 2 ^ 32 then
    if s.claims a then .next { s with reads := s.reads ++ [Config.freeByte s.draws], draws := s.draws + 1 }
    else .next { s with reads := s.reads ++ [s.mem.read a] }
  else .fault (.noSuchAddress a)

/-- Reset leaves some bytes of the blob in flight unspecified: when the command writes memory (R271), or when a
foreign write had raced with it (R275). -/
def State.resetSpoils (s : State) : Bool := s.raced || (s.current.map writesMemory).getD false

/-- Reset of the unit (R270, R271): idle, nothing in flight, no response pending; memory is not touched, but for the
blob of a writing command that is abandoned, whose bytes become draws. A response delivered before the reset was an
event that is over; the host keeps it, a fault above all (R245; log entry 4). -/
def resetUnit (s : State) : State :=
  let idle : State := { s.consume with inFlight := none, raced := false }
  match s.claimed with
  | some blob =>
    if s.resetSpoils then { idle with mem := s.mem.scramble blob s.draws, draws := s.draws + blob.2 } else idle
  | none => idle

/-- The host's next move, `rest` the moves after it. An offer and a wait stand back while a command is in flight, and
the unit moves (R26). -/
def hostMove (m : HostMove) (rest : List HostMove) (s : State) : Answer :=
  match m with
  | .issue p =>
    match s.inFlight with
    | some _ => unitTurn s
    | none => .next (State.accept { s with moves := rest } p)
  | .await =>
    match s.inFlight with
    | some _ => unitTurn s
    | none => .next (State.consume { s with moves := rest })
  | .store a b => hostStore a b { s with moves := rest }
  | .load a => hostLoad a { s with moves := rest }
  | .reset => .next (resetUnit { s with moves := rest })

/-- The packet is in flight and the host waits for its response: the next step runs it. -/
def State.inFlightNow (s : State) (p : Packet) : State := { s.accept p with moves := [] }

end Sys2Proof.Machine
end

