-- ==== Sys2Proof/Machine/Step.lean ====
section
/-! DEFINITION. The step: the host's next move if it has one, else the unit's turn (R2, R20, R22). -/

namespace Sys2Proof.Machine

/-- One step of the system. `State.moves` says who moves: plain data, so the step is one function. -/
def step (s : State) : Host.Outcome State Fault Refusal :=
  match s.moves with
  | [] => unitTurn s
  | m :: rest => hostMove m rest s

/-- `s` with the packet of these bits in flight, accepted from the host, and no host move before the unit's turn: the
next step runs it. The unit fetches nothing (R22, R51); this stands for the host issuing the packet (log entry 3). -/
def State.withFetchWord (s : State) (nbits w : Nat) : State := s.inFlightNow (tablePacket nbits w)

end Sys2Proof.Machine
end

