-- ==== Sys2Proof/Machine/Asm.lean ====
section
/-! DEFINITION. The assembler: one command per line (R80) and the pseudo-instructions (R81). It is no part of the unit;
it says which packet a line of the spec's assembly stands for. -/

namespace Sys2Proof.Machine

/-- Why a line is no command (R80, R75; log entry 9). -/
inductive AsmError where
  /-- Nothing stands on the line, or only a comment. -/
  | emptyLine
  /-- The first word names no operation. -/
  | unknownMnemonic
  /-- An operand is not a decimal or `0x` hexadecimal number. -/
  | badNumber
  /-- The operation takes another number of operands. -/
  | operandCount
  /-- An operand does not fit the width R75 gives it, or `zero` names more than `2^31 - 1` bits (R81). -/
  | outOfRange
deriving DecidableEq, Repr

/-! ### Operands as words (R75, R80) -/

/-- An unsigned 32-bit operand. -/
def asmWord (v : Int) : Except AsmError Word :=
  if 0 ≤ v ∧ v < 2 ^ 32 then .ok (BitVec.ofInt 32 v) else .error .outOfRange

/-- The amount `c`, "encoded as `c mod 2^32`" (R80). -/
def asmAmount (v : Int) : Except AsmError Word :=
  if -2 ^ 31 ≤ v ∧ v < 2 ^ 31 then .ok (BitVec.ofInt 32 v) else .error .outOfRange

/-- A 64-bit operand "written as one number" (R80). -/
def asmDWord (v : Int) : Except AsmError DWord :=
  if 0 ≤ v ∧ v < 2 ^ 64 then .ok (BitVec.ofInt 64 v) else .error .outOfRange

/-- The packet of a row's `W[0]` and a line's operands, which stand in the order of `W[1..4]` with the must-be-zero
words left out (R80). -/
def asmPacket (w : Word) : Format → List Int → Except AsmError Packet
  | .bi, [buf, len, bit] => do return packBI w (← asmWord buf) (← asmWord len) (← asmWord bit)
  | .biv, [buf, len, bit, val] => do return ⟨w, ← asmWord buf, ← asmWord len, ← asmWord bit, ← asmWord val⟩
  | .bc, [buf, len, c] => do return packBC w (← asmWord buf) (← asmWord len) (← asmAmount c)
  | .bw, [buf, len, start, count] => do
    return packBW w (← asmWord buf) (← asmWord len) (← asmWord start) (← asmWord count)
  | .v32, [x] => do return packV32 w (← asmWord x)
  | .v64, [x] => do return packV64 w (← asmDWord x)
  | .v128, [x, y] => do
    let a ← asmDWord x
    let b ← asmDWord y
    return ⟨w, lowWord a, highWord a, lowWord b, highWord b⟩
  | .vc32, [x, c] => do return packVC32 w (← asmWord x) (← asmAmount c)
  | .vc64, [x, c] => do return packVC64 w (← asmDWord x) (← asmAmount c)
  | .vw32, [x, start, count] => do return ⟨w, ← asmWord x, 0#32, ← asmWord start, ← asmWord count⟩
  | .vw64, [x, start, count] => do
    let a ← asmDWord x
    return ⟨w, lowWord a, highWord a, ← asmWord start, ← asmWord count⟩
  | _, _ => .error .operandCount

/-! ### Pseudo-instructions (R81) -/

/-- Replace a pseudo-instruction by the one real command it expands to; `none` if `zero` names too many bits. -/
def expandPseudo (name : String) (ops : List Int) : Option (String × List Int) :=
  if name = "getbit_wrap" then some ("getbitw", ops)
  else if name = "popcount128" then some ("popcount.w128", ops)
  else if name = "setbit" ∧ ops.length = 4 then some ("setbitv", ops)
  else if name = "zero" then
    match ops with
    | [buf, len] => if 8 * len ≤ 2 ^ 31 - 1 then some ("lshift", [buf, len, 8 * len]) else none
    | _ => some (name, ops)
  else some (name, ops)

/-- Assemble a real command by its mnemonic in the opcode map. -/
def assembleReal (name : String) (ops : List Int) : Except AsmError Packet :=
  match opcodeMap.find? (fun r => r.mnemonic == name) with
  | some r => asmPacket r.word r.format ops
  | none => if name = "zero" then .error .operandCount else .error .unknownMnemonic

/-- Assemble a mnemonic with its operands. -/
def assembleCommand (name : String) (ops : List Int) : Except AsmError Packet :=
  match expandPseudo name ops with
  | some (real, args) => assembleReal real args
  | none => .error .outOfRange

/-! ### Lines (R80) -/

/-- The value of a digit in bases up to 16. -/
def digitValue (ch : Char) : Option Nat :=
  if '0' ≤ ch ∧ ch ≤ '9' then some (ch.toNat - 48)
  else if 'a' ≤ ch ∧ ch ≤ 'f' then some (ch.toNat - 87)
  else if 'A' ≤ ch ∧ ch ≤ 'F' then some (ch.toNat - 55)
  else none

/-- Digits of a base, most significant first, read on from `acc`. -/
def readDigits (base : Nat) : Nat → List Char → Option Nat
  | acc, [] => some acc
  | acc, ch :: rest =>
    match digitValue ch with
    | some d => if d < base then readDigits base (acc * base + d) rest else none
    | none => none

/-- A decimal or `0x` hexadecimal number. -/
def readNat : List Char → Option Nat
  | [] => none
  | '0' :: 'x' :: ch :: rest => readDigits 16 0 (ch :: rest)
  | cs => readDigits 10 0 cs

/-- A number, which may carry a minus sign. -/
def readInt : List Char → Option Int
  | '-' :: rest => (readNat rest).map (fun n => -(n : Int))
  | cs => (readNat cs).map Int.ofNat

/-- A blank between the parts of a line. -/
def isBlank (ch : Char) : Bool := ch == ' ' || ch == '\t'

/-- A line without its comment: `#` starts one (R80). -/
def dropComment : List Char → List Char
  | [] => []
  | ch :: rest => if ch == '#' then [] else ch :: dropComment rest

/-- Text without blanks at either end. -/
def trimBlanks (cs : List Char) : List Char := ((cs.dropWhile isBlank).reverse.dropWhile isBlank).reverse

/-- The pieces of a text between commas. -/
def splitCommas : List Char → List (List Char)
  | [] => [[]]
  | ch :: rest =>
    if ch == ',' then [] :: splitCommas rest
    else
      match splitCommas rest with
      | [] => [[ch]]
      | piece :: more => (ch :: piece) :: more

/-- The operands of a line: numbers separated by commas. -/
def readOperands (cs : List Char) : Option (List Int) :=
  match trimBlanks cs with
  | [] => some []
  | text => (splitCommas text).mapM (fun piece => readInt (trimBlanks piece))

/-- Assemble one line `mnemonic operand, operand, ...` (R80). -/
def assembleLine (line : String) : Except AsmError Packet :=
  let text := trimBlanks (dropComment line.toList)
  match text.takeWhile (fun ch => !isBlank ch) with
  | [] => .error .emptyLine
  | name =>
    match readOperands (text.dropWhile (fun ch => !isBlank ch)) with
    | none => .error .badNumber
    | some ops => assembleCommand (String.ofList name) ops

end Sys2Proof.Machine
end

