-- ==== Sys2Proof/Machine/Strategies.lean ====
section
/-! DEFINITION. The dispatcher's selection (R220) and the strategies' access sequences, one admissible sequence each
(R142 to R147, R174 to R179, R202, R203). `exec` takes its meaning from the reference functions, as R225 and R46 allow;
that a strategy leaves the same bytes is stated, and proved, apart. Each strategy here runs after its checks; `c` is
the amount of a shift (not negative), `e` the reduced amount of a rotate. -/

namespace Sys2Proof.Machine

/-- `select(len)` (R220): it reads the length only. -/
def select (len : Nat) : Gran := if len % 4 = 0 then .g32 else .g8

/-- `for i from k-1 down to 0`: the highest index first (R148). -/
def loopDown (body : Nat → Memory → Memory) : Nat → Memory → Memory
  | 0, m => m
  | k + 1, m => loopDown body k (body k m)

/-- `for i from 0 up to k-1`: the lowest index first (R148). -/
def loopUp (body : Nat → Memory → Memory) : Nat → Memory → Memory
  | 0, m => m
  | k + 1, m => body k (loopUp body k m)

/-- `for k in 0 .. len-1: B[k] <- 0`. -/
def zeroBlob (m : Memory) (buf len : Nat) : Memory := m.fill buf (fun _ => 0#8) len

/-! ### Shifts, in place -/

/-- R142. -/
def lshiftByBits (m : Memory) (buf len c : Nat) : Memory :=
  if c ≥ 8 * len then zeroBlob m buf len
  else
    loopDown (fun i m => m.setBitAt buf i false) c
      (loopDown (fun j m => m.setBitAt buf (c + j) (m.bitAt buf j)) (8 * len - c) m)

/-- R143. -/
def rshiftByBits (m : Memory) (buf len c : Nat) : Memory :=
  if c ≥ 8 * len then zeroBlob m buf len
  else
    loopUp (fun j m => m.setBitAt buf (8 * len - c + j) false) c
      (loopUp (fun i m => m.setBitAt buf i (m.bitAt buf (i + c))) (8 * len - c) m)

/-- `B[k]` of a strategy that may look past the blob: 0 there. -/
def byteOr0 (m : Memory) (buf k : Nat) (inside : Prop) [Decidable inside] : Byte :=
  if inside then m.read (buf + k) else 0#8

/-- `Wd[j]` of a strategy that may look past the blob: 0 there. -/
def wordOr0 (m : Memory) (buf j : Nat) (inside : Prop) [Decidable inside] : Word :=
  if inside then m.readWord (buf + 4 * j) else 0#32

/-- R144. -/
def lshiftByBytes (m : Memory) (buf len c : Nat) : Memory :=
  if c ≥ 8 * len then zeroBlob m buf len
  else
    loopDown (fun k m =>
      m.write (buf + k)
        ((byteOr0 m buf (k - c / 8) (c / 8 ≤ k) <<< (c % 8)) |||
          (byteOr0 m buf (k - c / 8 - 1) (c / 8 + 1 ≤ k) >>> (8 - c % 8)))) len m

/-- R145. -/
def rshiftByBytes (m : Memory) (buf len c : Nat) : Memory :=
  if c ≥ 8 * len then zeroBlob m buf len
  else
    loopUp (fun k m =>
      m.write (buf + k)
        ((byteOr0 m buf (k + c / 8) (k + c / 8 < len) >>> (c % 8)) |||
          (byteOr0 m buf (k + c / 8 + 1) (k + c / 8 + 1 < len) <<< (8 - c % 8)))) len m

/-- R146, for a length that is a multiple of 4. -/
def lshiftByWords (m : Memory) (buf len c : Nat) : Memory :=
  if c ≥ 8 * len then zeroBlob m buf len
  else
    loopDown (fun j m =>
      m.writeWord (buf + 4 * j)
        ((wordOr0 m buf (j - c / 32) (c / 32 ≤ j) <<< (c % 32)) |||
          (wordOr0 m buf (j - c / 32 - 1) (c / 32 + 1 ≤ j) >>> (32 - c % 32)))) (len / 4) m

/-- R147, for a length that is a multiple of 4. -/
def rshiftByWords (m : Memory) (buf len c : Nat) : Memory :=
  if c ≥ 8 * len then zeroBlob m buf len
  else
    loopUp (fun j m =>
      m.writeWord (buf + 4 * j)
        ((wordOr0 m buf (j + c / 32) (j + c / 32 < len / 4) >>> (c % 32)) |||
          (wordOr0 m buf (j + c / 32 + 1) (j + c / 32 + 1 < len / 4) <<< (32 - c % 32)))) (len / 4) m

/-! ### Rotates -/

/-- One pass of R174: the blob of `n` bits rotates left by one bit, the bit that leaves is carried. -/
def lrotPass (buf n : Nat) (m : Memory) : Memory :=
  (loopDown (fun j m => m.setBitAt buf (j + 1) (m.bitAt buf j)) (n - 1) m).setBitAt buf 0 (m.bitAt buf (n - 1))

/-- R174. -/
def lrotByBits (m : Memory) (buf len e : Nat) : Memory := loopUp (fun _ => lrotPass buf (8 * len)) e m

/-- One pass of R175. -/
def rrotPass (buf n : Nat) (m : Memory) : Memory :=
  (loopUp (fun i m => m.setBitAt buf i (m.bitAt buf (i + 1))) (n - 1) m).setBitAt buf (n - 1) (m.bitAt buf 0)

/-- R175. -/
def rrotByBits (m : Memory) (buf len e : Nat) : Memory := loopUp (fun _ => rrotPass buf (8 * len)) e m

/-- R176: every source is read from the copy `T`, the blob before the first write (R173). The indices
`(k - q) mod len` and `(k - q - 1) mod len` are written with `len` added, for `q < len`. -/
def lrotByBytes (m : Memory) (buf len e : Nat) : Memory :=
  m.fill buf (fun k =>
    (m.read (buf + (k + len - e / 8) % len) <<< (e % 8)) |||
      (m.read (buf + (k + len - e / 8 - 1) % len) >>> (8 - e % 8))) len

/-- R177. -/
def rrotByBytes (m : Memory) (buf len e : Nat) : Memory :=
  m.fill buf (fun k =>
    (m.read (buf + (k + e / 8) % len) >>> (e % 8)) |||
      (m.read (buf + (k + e / 8 + 1) % len) <<< (8 - e % 8))) len

/-- R178, for a length that is a multiple of 4; `T` is the blob before the first write. -/
def lrotByWords (m : Memory) (buf len e : Nat) : Memory :=
  loopUp (fun j m' =>
    m'.writeWord (buf + 4 * j)
      ((m.readWord (buf + 4 * ((j + len / 4 - e / 32) % (len / 4))) <<< (e % 32)) |||
        (m.readWord (buf + 4 * ((j + len / 4 - e / 32 - 1) % (len / 4))) >>> (32 - e % 32)))) (len / 4) m

/-- R179, for a length that is a multiple of 4. -/
def rrotByWords (m : Memory) (buf len e : Nat) : Memory :=
  loopUp (fun j m' =>
    m'.writeWord (buf + 4 * j)
      ((m.readWord (buf + 4 * ((j + e / 32) % (len / 4))) >>> (e % 32)) |||
        (m.readWord (buf + 4 * ((j + e / 32 + 1) % (len / 4))) <<< (32 - e % 32)))) (len / 4) m

/-! ### Windows -/

/-- One result byte of R202: byte `i` of the window that starts at bit `st` of the blob. -/
def windowByte (m : Memory) (buf len st i : Nat) : Byte :=
  (m.read (buf + (st / 8 + i) % len) >>> (st % 8)) ||| (m.read (buf + (st / 8 + i + 1) % len) <<< (8 - st % 8))

/-- R202. -/
def windowByBytes (m : Memory) (buf len start count : Nat) : Nat :=
  let st := start % (8 * len)
  let t : Word := windowByte m buf len st 3 ++ windowByte m buf len st 2 ++ windowByte m buf len st 1 ++
    windowByte m buf len st 0
  t.toNat &&& mask count

/-- R203, for a length that is a multiple of 4. -/
def windowByWords (m : Memory) (buf len start count : Nat) : Nat :=
  let st := start % (8 * len)
  let t : Word := (m.readWord (buf + 4 * (st / 32 % (len / 4))) >>> (st % 32)) |||
    (m.readWord (buf + 4 * ((st / 32 + 1) % (len / 4))) <<< (32 - st % 32))
  t.toNat &&& mask count

end Sys2Proof.Machine
end

