-- ==== Sys2Proof/Safety.lean ====
section
/-! DEFINITION. What counts as a safe run, in the terms the claims use: admission (R44), legal responses (R241), the
invariant of the state, a run that has gone wrong (R245), exclusive use of a blob in flight (R275). -/

namespace Sys2Proof.Machine

/-- The blob `[buf, buf+len)` is admitted (R44): short enough, not past the top of memory, inside the region. -/
abbrev Admitted (p : Params) (buf len : Word) : Prop :=
  len.toNat ≤ p.maxLen ∧ buf.toNat + len.toNat ≤ 2 ^ 32 ∧
    (len.toNat = 0 ∨ (p.blobBase ≤ buf.toNat ∧ buf.toNat + len.toNat ≤ p.blobBase + p.blobSize))

/-- Two memories agree at every address outside `[buf, buf+len)`. -/
def SameOutside (buf len : Nat) (m m' : Memory) : Prop :=
  ∀ a, (a < buf ∨ buf + len ≤ a) → m'.read a = m.read a

/-- Two memories agree at every address inside `[buf, buf+len)`. -/
def SameInside (buf len : Nat) (m m' : Memory) : Prop :=
  ∀ a, buf ≤ a → a < buf + len → m'.read a = m.read a

/-- The host makes no move before the unit's turn: it has none, or it offers a packet or waits (R26). -/
def HostWaits (s : State) : Prop :=
  s.moves = [] ∨ (∃ p rest, s.moves = .issue p :: rest) ∨ (∃ rest, s.moves = .await :: rest)

/-- The number of bits that are 1 in an N-bit word. -/
def onesIn (N : Nat) (x : BitVec N) : Nat := (List.range N).countP (fun k => x.getLsbD k)

/-- A response the unit can produce (R77, R241): STATUS 0x00 to 0x06, and RESULT 0 on a fault. -/
def Response.legal (r : Response) : Bool :=
  decide (r.status.toNat ≤ 6) && (decide (r.status = statusDone) || decide (r.result = 0#64))

/-- The invariant of the state: memory in canonical form, no response pending while a command is in flight (R26),
only responses the unit can produce (R241), a race only with a command in flight (R275). -/
def State.inv (s : State) : Bool :=
  s.mem.wf && (s.inFlight.isNone || s.response.isNone) && s.response.all Response.legal &&
    s.record.all Response.legal && (!s.raced || s.inFlight.isSome)

/-- The run has gone wrong: some response had a non-zero STATUS (R245: treat it as "gone wrong" and keep it). -/
def State.goneWrong (s : State) : Bool :=
  (s.record ++ s.response.toList).any (fun r => decide (r.status ≠ statusDone))

/-- The host keeps R275 in its next move: it does not touch the blob in flight, and has not. -/
def State.exclusive (s : State) : Bool :=
  !s.raced &&
    match s.moves with
    | .store a _ :: _ => !s.claims a
    | .load a :: _ => !s.claims a
    | _ => true

end Sys2Proof.Machine
end

