-- ==== Sys2Proof/Certificates/Slice0/Obligations.lean ====
section
/-! DEFINITION. The statements for the provers, rule by rule. `STATUS` codes are written as the numbers of R241. -/

open Sys2Proof Sys2Proof.Machine

/-! ### Encoding -/

/-- Every command is decoded from its own packet: no operand bit is lost (R74, R76, R79). -/
def Obligations.DecodeOfEncodeIsIdentity : Prop := ∀ i : Instr, decode (encode i) = .ok i

/-- A packet that decodes is the packet of what it decodes to: no bit of a packet is ignored (R76, R78). -/
def Obligations.EncodeOfDecodeIsIdentity : Prop := ∀ (p : Packet) (i : Instr), decode p = .ok i → encode i = p

/-- The decoder accepts exactly the packets that none of R78's five cases calls illegal. -/
def Obligations.DecoderAcceptsExactlyLegalPackets : Prop :=
  ∀ p : Packet, p.wellFormed = true ↔ ∃ i, decode p = .ok i

/-- Packets the spec writes out (95_test_vectors.md section 3) decode to the commands it names. -/
def Obligations.PacketsOfTheSpecDecode : Prop :=
  decode ⟨0x12#32, 0x1000#32, 3#32, 7#32, 0#32⟩ = .ok (.setbit 0x1000#32 3#32 7#32) ∧
  decode ⟨0x22#32, 0x89ABCDEF#32, 0x01234567#32, 0x76543210#32, 0xFEDCBA98#32⟩ =
    .ok (.popcountW128 0x0123456789ABCDEF#64 0xFEDCBA9876543210#64) ∧
  decode ⟨0x330#32, 0x3000#32, 4#32, 4#32, 0#32⟩ = .ok (.lshiftG32 0x3000#32 4#32 4#32) ∧
  decode ⟨0x44#32, 0x23456780#32, 0#32, 0xFFFFFFFC#32, 0#32⟩ = .ok (.lrotW32 0x23456780#32 0xFFFFFFFC#32) ∧
  decode ⟨0x250#32, 0x3000#32, 4#32, 0x1C#32, 8#32⟩ = .ok (.windowG8 0x3000#32 4#32 0x1C#32 8#32)

/-- The four pseudo-instructions assemble to the packets of their expansions (R81). -/
def Obligations.PseudoInstructionsExpand : Prop :=
  (∀ buf len bit : Int,
    assembleCommand "getbit_wrap" [buf, len, bit] = assembleCommand "getbitw" [buf, len, bit]) ∧
  (∀ buf len bit val : Int,
    assembleCommand "setbit" [buf, len, bit, val] = assembleCommand "setbitv" [buf, len, bit, val]) ∧
  (∀ w0 w1 : Int, assembleCommand "popcount128" [w0, w1] = assembleCommand "popcount.w128" [w0, w1]) ∧
  (∀ buf len : Int, 8 * len ≤ 2 ^ 31 - 1 →
    assembleCommand "zero" [buf, len] = assembleCommand "lshift" [buf, len, 8 * len]) ∧
  (∀ buf len : Int, 2 ^ 31 - 1 < 8 * len → ∃ e, assembleCommand "zero" [buf, len] = .error e)

/-- The assembler makes legal packets only (R78, R80). -/
def Obligations.AssembledPacketsAreLegal : Prop :=
  ∀ (line : String) (p : Packet), assembleLine line = .ok p → p.wellFormed = true

/-! ### The step, the channels, reset -/

/-- When the packet in flight decodes to `i`, no other agent has raced with it and the host makes no move before the
unit's turn, the step is `exec` of `i` (R2, R20, R76). Nothing is added around it. -/
def Obligations.StepRunsTheDecodedCommand : Prop :=
  ∀ (s : State) (p : Packet) (i : Instr),
    s.inFlight = some p → decode p = .ok i → s.raced = false → HostWaits s → step s = exec i s

/-- A packet is illegal exactly when it is the packet of none of the forty commands, and an illegal packet in flight ends
with STATUS 0x01, RESULT 0, and memory untouched; the all-zero and the all-ones packet are illegal (R78). -/
def Obligations.IllegalPacketFaults : Prop :=
  (∀ p : Packet, p.wellFormed = false ↔ ∀ i, encode i ≠ p) ∧
  (∀ (s : State) (p : Packet), s.inFlight = some p → p.wellFormed = false → HostWaits s →
    step s = .next (s.deliver ⟨0x01#8, 0#64⟩)) ∧
  Packet.wellFormed ⟨0#32, 0#32, 0#32, 0#32, 0#32⟩ = false ∧
  Packet.wellFormed ⟨0xFFFFFFFF#32, 0xFFFFFFFF#32, 0xFFFFFFFF#32, 0xFFFFFFFF#32, 0xFFFFFFFF#32⟩ = false

/-- An idle unit with nothing offered to it waits (R270). -/
def Obligations.IdleUnitWaits : Prop :=
  ∀ s : State, s.inFlight = none → s.moves = [] → step s = .next s

/-- An offered packet is accepted when no command is in flight; while one is, the unit ends that command and the offer
still stands, neither lost nor an error (R26). That a response still pending when a packet is accepted does not hold the
acceptance back, and is no longer pending after it, is the model's choice (log entry 4). -/
def Obligations.OfferWaitsForTheCommandInFlight : Prop :=
  ∀ (s : State) (q : Packet) (rest : List HostMove), s.moves = .issue q :: rest →
    (s.inFlight = none →
      ∃ t, step s = .next t ∧ t.inFlight = some q ∧ t.moves = rest ∧ t.mem = s.mem ∧ t.response = none) ∧
    (∀ p, s.inFlight = some p →
      ∃ t r, step s = .next t ∧ t.inFlight = none ∧ t.response = some r ∧ t.moves = s.moves ∧ t.record = s.record)

/-- A host that issues the packets `ps` one after another and waits for the last response gets exactly one response for
each, whatever their STATUS (R22, R25). R280 gives a finite time only: that the time is `2n + 1` steps, one for each
acceptance, each command and the last wait, is the model's (log entries 3 and 11), and so is the record that shows the
responses (log entry 4). -/
def Obligations.HostProgramGetsOneResponsePerPacket : Prop :=
  ∀ (ps : List Packet) (s : State),
    s.inFlight = none → s.response = none → s.moves = ps.map HostMove.issue ++ [.await] →
    ∃ t rs, Sys2Proof.core.run (2 * ps.length + 1) s = .next t ∧ rs.length = ps.length ∧
      t.record = s.record ++ rs ∧ t.inFlight = none ∧ t.response = none ∧ t.moves = []

/-- Right after reset: no command in flight, no response pending, and the defaults of R7, which lie in the ranges of the
parameters (R7, R29). Blob memory lists
nothing and its background is unspecified (R27; log entry 1 for how the model holds it). -/
def Obligations.ResetStateIsIdle : Prop :=
  State.reset.inFlight = none ∧ State.reset.response = none ∧
  State.reset.params.maxLen = 2 ^ 32 - 1 ∧ State.reset.params.blobBase = 0 ∧ State.reset.params.blobSize = 2 ^ 32 ∧
  State.reset.params.legal = true ∧
  State.reset.mem = { background := .unspecified, cells := [] }

/-- Reset leaves the unit idle with nothing pending and no response for an abandoned command; memory is unchanged if
nothing was in flight, if the packet in flight was illegal or named a command that only reads, and otherwise unchanged
outside the blob in flight (R270, R271). That a race is told apart is the model's (log entry 6), and so is that the
host keeps its record over a reset, a response delivered before it included (log entry 4). -/
def Obligations.ResetAbandonsTheCommandInFlight : Prop :=
  ∀ (s : State) (rest : List HostMove), s.moves = .reset :: rest →
    ∃ t, step s = .next t ∧ t.inFlight = none ∧ t.response = none ∧ t.moves = rest ∧
      t.record = s.record ++ s.response.toList ∧
      (s.inFlight = none → t.mem = s.mem) ∧
      (∀ p e, s.inFlight = some p → decode p = .error e → t.mem = s.mem) ∧
      (∀ p i, s.inFlight = some p → decode p = .ok i → writesMemory i = false → s.raced = false → t.mem = s.mem) ∧
      (∀ p i, s.inFlight = some p → decode p = .ok i → blobOf i = none → t.mem = s.mem) ∧
      (∀ p i buf len, s.inFlight = some p → decode p = .ok i → blobOf i = some (buf, len) →
        SameOutside buf len s.mem t.mem)

/-- The invariant of the state is kept by every step: memory canonical (log entry 1), no response pending beside a command
in flight (log entry 4), only responses the unit can produce (R241), a race only with a command in flight (R275; log
entry 6). -/
def Obligations.EveryStepKeepsTheInvariant : Prop :=
  ∀ s t : State, s.inv = true → step s = .next t → t.inv = true

/-- The invariant holds right after reset. -/
def Obligations.ResetMeetsTheInvariant : Prop := State.reset.inv = true

/-- No step changes the parameters of R7 or which initial memory lies under the listed bytes (R27). That a response once
recorded stays recorded, whatever its STATUS and over a reset too, is the model's choice (log entry 4). -/
def Obligations.StepKeepsParametersAndRecord : Prop :=
  ∀ s t : State, step s = .next t →
    t.params = s.params ∧ t.mem.background = s.mem.background ∧ ∃ new, t.record = s.record ++ new

/-! ### Rules about every command -/

/-- Every command ends with exactly one response the unit can produce, and changes nothing but blob memory and the
channels (R20, R25, R241). -/
def Obligations.EveryCommandEndsWithOneLegalResponse : Prop :=
  ∀ (i : Instr) (s : State),
    ∃ m r, exec i s = .next ((s.withMem m).deliver r) ∧ r.legal = true

/-- A command changes no byte outside the blob it names; a value command changes no byte at all (R27, R44). -/
def Obligations.CommandWritesOnlyItsBlob : Prop :=
  ∀ (i : Instr) (s t : State), exec i s = .next t →
    (∀ buf len, blobOf i = some (buf, len) → SameOutside buf len s.mem t.mem) ∧ (blobOf i = none → t.mem = s.mem)

/-- A command reads no byte outside the blob it names: from two states with the same parameters whose memories agree
inside the blob, its response is the same and so are the bytes it leaves there (R27, R44). -/
def Obligations.CommandReadsOnlyItsBlob : Prop :=
  ∀ (i : Instr) (s s' t t' : State), s'.params = s.params →
    (∀ buf len, blobOf i = some (buf, len) → SameInside buf len s.mem s'.mem) →
    exec i s = .next t → exec i s' = .next t' →
    t'.response = t.response ∧ ∀ buf len, blobOf i = some (buf, len) → SameInside buf len t.mem t'.mem

/-- Two commands with equal packets applied to equal memory give equal responses and equal memory, whatever came before
them (R21). -/
def Obligations.NothingSurvivesBetweenCommands : Prop :=
  ∀ (i : Instr) (s s' t t' : State), s'.params = s.params → s'.mem = s.mem →
    exec i s = .next t → exec i s' = .next t' → t'.response = t.response ∧ t'.mem = t.mem

/-- The reading commands, the windows and the value forms leave memory as it was (R46). -/
def Obligations.ReadingCommandsWriteNothing : Prop :=
  ∀ (i : Instr) (s t : State), writesMemory i = false → exec i s = .next t → t.mem = s.mem

/-- When the command in flight, legal or not, ends with a fault, its response is the only effect: STATUS its code, RESULT
0, blob memory and everything else as it was when the command was accepted (R243). -/
def Obligations.FaultHasNoEffectButItsResponse : Prop :=
  ∀ (s t : State) (p : Packet) (r : Response), s.inFlight = some p → HostWaits s → step s = .next t →
    t.response = some r → r.status ≠ 0x00#8 → t = s.deliver r ∧ r.result = 0#64

/-- After a fault the unit is ready for the next command, and executes it exactly as if the faulting command had never been
issued: whatever the command is, its answer is the same (R245). -/
def Obligations.FaultIsForgottenByTheNextCommand : Prop :=
  ∀ (s t : State) (p : Packet) (r : Response), s.inFlight = some p → HostWaits s → step s = .next t →
    t.response = some r → r.status ≠ 0x00#8 → t.inFlight = none ∧ ∀ j, exec j t = exec j s

/-- Which commands can raise which fault (R241, the column "raised by"), by the `W[0]` of R79. -/
def Obligations.EachFaultIsRaisedByItsCommandsOnly : Prop :=
  ∀ (i : Instr) (s t : State) (r : Response), exec i s = .next t → t.response = some r →
    r.status ≠ 0x01#8 ∧ r.status.toNat ≤ 6 ∧
    (r.status = 0x02#8 → blobOf i ≠ none) ∧
    (r.status = 0x03#8 → (encode i).w0 ∈ [0x330#32, 0x331#32, 0x340#32, 0x341#32, 0x350#32]) ∧
    (r.status = 0x04#8 → (encode i).w0 ∈ [0x10#32, 0x12#32, 0x13#32, 0x14#32, 0x15#32]) ∧
    (r.status = 0x05#8 → (encode i).w0 ∈
      [0x30#32, 0x130#32, 0x230#32, 0x330#32, 0x31#32, 0x131#32, 0x231#32, 0x331#32, 0x34#32, 0x35#32, 0x36#32, 0x37#32]) ∧
    (r.status = 0x06#8 → (encode i).w0 ∈ [0x50#32, 0x250#32, 0x350#32, 0x54#32, 0x56#32])

/-- RESULT by operation (R77): a bit, a count, a 32-bit value, a 64-bit value, or 0. -/
def Obligations.ResultStaysInTheRangeOfItsOperation : Prop :=
  ∀ (i : Instr) (s t : State) (r : Response), exec i s = .next t → t.response = some r →
    ((encode i).w0 ∈ [0x10#32, 0x11#32, 0x24#32, 0x25#32] → r.result.toNat ≤ 1) ∧
    ((encode i).w0 = 0x20#32 → r.result.toNat ≤ 32) ∧
    ((encode i).w0 = 0x21#32 → r.result.toNat ≤ 64) ∧
    ((encode i).w0 = 0x22#32 → r.result.toNat ≤ 128) ∧
    ((encode i).w0 ∈ [0x50#32, 0x250#32, 0x350#32, 0x54#32, 0x56#32, 0x34#32, 0x35#32, 0x44#32, 0x45#32] →
      r.result.toNat < 2 ^ 32) ∧
    (writesMemory i = true → r.result = 0#64) ∧
    (r.status ≠ 0x00#8 → r.result = 0#64)

/-- A blob that is too long, would wrap past the top of memory, or is not wholly inside the region faults BAD_LEN in
every buffer-format command, whatever its other operands (R44, R242). -/
def Obligations.UnadmittedBlobFaultsBadLen : Prop :=
  ∀ (i : Instr) (s : State) (buf len : Nat), blobOf i = some (buf, len) →
    (len > s.params.maxLen ∨ buf + len > 2 ^ 32 ∨
      (len > 0 ∧ (buf < s.params.blobBase ∨ buf + len > s.params.blobBase + s.params.blobSize))) →
    exec i s = .next (s.deliver ⟨0x02#8, 0#64⟩)

/-- Behaviour at `len = 0`, the whole table of R246, for an admitted `buf` (every `buf` is). -/
def Obligations.EmptyBlobTable : Prop :=
  ∀ (s : State) (buf x y : Word),
    (exec (.getbit buf 0#32 x) s = .next (s.deliver ⟨0x04#8, 0#64⟩) ∧
     exec (.setbit buf 0#32 x) s = .next (s.deliver ⟨0x04#8, 0#64⟩) ∧
     exec (.setbitv buf 0#32 x y) s = .next (s.deliver ⟨0x04#8, 0#64⟩) ∧
     exec (.clearbit buf 0#32 x) s = .next (s.deliver ⟨0x04#8, 0#64⟩) ∧
     exec (.flipbit buf 0#32 x) s = .next (s.deliver ⟨0x04#8, 0#64⟩)) ∧
    exec (.getbitw buf 0#32 x) s = .next (s.deliver ⟨0x02#8, 0#64⟩) ∧
    (∀ i ∈ [Instr.lshift buf 0#32 x, .lshiftG1 buf 0#32 x, .lshiftG8 buf 0#32 x, .lshiftG32 buf 0#32 x,
            .rshift buf 0#32 x, .rshiftG1 buf 0#32 x, .rshiftG8 buf 0#32 x, .rshiftG32 buf 0#32 x],
      (0 ≤ x.toInt → exec i s = .next (s.deliver ⟨0x00#8, 0#64⟩)) ∧
      (x.toInt < 0 → exec i s = .next (s.deliver ⟨0x05#8, 0#64⟩))) ∧
    (∀ i ∈ [Instr.lrot buf 0#32 x, .lrotG1 buf 0#32 x, .lrotG8 buf 0#32 x, .lrotG32 buf 0#32 x,
            .rrot buf 0#32 x, .rrotG1 buf 0#32 x, .rrotG8 buf 0#32 x, .rrotG32 buf 0#32 x],
      exec i s = .next (s.deliver ⟨0x00#8, 0#64⟩)) ∧
    (∀ i ∈ [Instr.window buf 0#32 x y, .windowG8 buf 0#32 x y, .windowG32 buf 0#32 x y],
      exec i s = .next (s.deliver ⟨0x02#8, 0#64⟩))

/-- The priority examples of R242. -/
def Obligations.FaultPriorityExamples : Prop :=
  ∀ (s : State) (buf : Word),
    (Admitted s.params buf 3#32 →
      exec (.lshiftG32 buf 3#32 0xFFFFFFFF#32) s = .next (s.deliver ⟨0x03#8, 0#64⟩)) ∧
    exec (.windowG32 buf 0#32 0#32 0#32) s = .next (s.deliver ⟨0x02#8, 0#64⟩) ∧
    runPacket ⟨0x10#32, buf, 0#32, 0#32, 1#32⟩ s = .next (s.deliver ⟨0x01#8, 0#64⟩)

/-! ### BitAddress -/

/-- `getbit` (R101): its encoding, its faults (ILLEGAL_CMD for a non-zero `W[4]`), and on the other operands bit
`bit` of the blob, memory not written. -/
def Obligations.GetbitReturnsTheAddressedBit : Prop :=
  ∀ (buf len bit : Word) (s : State),
    encode (.getbit buf len bit) = ⟨0x10#32, buf, len, bit, 0#32⟩ ∧
    (∀ w4, w4 ≠ 0#32 → runPacket ⟨0x10#32, buf, len, bit, w4⟩ s = .next (s.deliver ⟨0x01#8, 0#64⟩)) ∧
    (¬ Admitted s.params buf len → exec (.getbit buf len bit) s = .next (s.deliver ⟨0x02#8, 0#64⟩)) ∧
    (Admitted s.params buf len → 8 * len.toNat ≤ bit.toNat →
      exec (.getbit buf len bit) s = .next (s.deliver ⟨0x04#8, 0#64⟩)) ∧
    (Admitted s.params buf len → bit.toNat < 8 * len.toNat →
      exec (.getbit buf len bit) s = .next (s.deliver ⟨0x00#8,
        if (s.mem.read (buf.toNat + bit.toNat / 8)).getLsbD (bit.toNat % 8) then 1#64 else 0#64⟩))

/-- `getbitw` (R102): its encoding, its faults (ILLEGAL_CMD for a non-zero `W[4]`), and the bit at `bit mod (8*len)`. -/
def Obligations.GetbitwWrapsTheIndex : Prop :=
  ∀ (buf len bit : Word) (s : State),
    encode (.getbitw buf len bit) = ⟨0x11#32, buf, len, bit, 0#32⟩ ∧
    (∀ w4, w4 ≠ 0#32 → runPacket ⟨0x11#32, buf, len, bit, w4⟩ s = .next (s.deliver ⟨0x01#8, 0#64⟩)) ∧
    (¬ Admitted s.params buf len → exec (.getbitw buf len bit) s = .next (s.deliver ⟨0x02#8, 0#64⟩)) ∧
    (Admitted s.params buf len → len.toNat = 0 →
      exec (.getbitw buf len bit) s = .next (s.deliver ⟨0x02#8, 0#64⟩)) ∧
    (Admitted s.params buf len → 0 < len.toNat →
      exec (.getbitw buf len bit) s = .next (s.deliver ⟨0x00#8,
        if (s.mem.read (buf.toNat + bit.toNat % (8 * len.toNat) / 8)).getLsbD (bit.toNat % (8 * len.toNat) % 8)
        then 1#64 else 0#64⟩))

/-- `setbit`, `setbitv`, `clearbit`, `flipbit` (R103 to R106): encoding, faults, and on the other operands exactly the
byte at `buf + (bit div 8)` is written, one bit of it changed as the command says, RESULT 0. -/
def Obligations.MutatorsChangeOneBitOfOneByte : Prop :=
  ∀ (buf len bit val : Word) (s : State) (i : Instr) (p : Packet) (new : Bool → Bool),
    (i, p, new) ∈
      [(Instr.setbit buf len bit, Packet.mk 0x12#32 buf len bit 0#32, fun _ => true),
       (.setbitv buf len bit val, ⟨0x13#32, buf, len, bit, val⟩, fun _ => decide (val ≠ 0#32)),
       (.clearbit buf len bit, ⟨0x14#32, buf, len, bit, 0#32⟩, fun _ => false),
       (.flipbit buf len bit, ⟨0x15#32, buf, len, bit, 0#32⟩, fun b => !b)] →
    encode i = p ∧
    (¬ Admitted s.params buf len → exec i s = .next (s.deliver ⟨0x02#8, 0#64⟩)) ∧
    (Admitted s.params buf len → 8 * len.toNat ≤ bit.toNat → exec i s = .next (s.deliver ⟨0x04#8, 0#64⟩)) ∧
    (Admitted s.params buf len → bit.toNat < 8 * len.toNat →
      ∃ m, exec i s = .next ((s.withMem m).deliver ⟨0x00#8, 0#64⟩) ∧
        (∀ a, a ≠ buf.toNat + bit.toNat / 8 → m.read a = s.mem.read a) ∧
        ∀ k, k < 8 → (m.read (buf.toNat + bit.toNat / 8)).getLsbD k =
          if k = bit.toNat % 8 then new ((s.mem.read (buf.toNat + bit.toNat / 8)).getLsbD k)
          else (s.mem.read (buf.toNat + bit.toNat / 8)).getLsbD k)

/-- The round trip of R107 and its form on the blob's value `V`: `setbit` gives `V | 2^i`, `clearbit` gives `V & ~2^i`,
`flipbit` gives `V ^ 2^i`, `getbit` returns `V[i]`, `getbitw` returns `V[bit mod n]`. -/
def Obligations.BitCommandsActOnTheBlobValue : Prop :=
  ∀ (buf len bit val : Word) (s : State), Admitted s.params buf len → bit.toNat < 8 * len.toNat →
    (∃ t u, exec (.setbitv buf len bit val) s = .next t ∧ exec (.getbit buf len bit) t = .next u ∧
      u.response = some ⟨0x00#8, if val = 0#32 then 0#64 else 1#64⟩ ∧
      ∀ j, j < 8 * len.toNat → j ≠ bit.toNat → t.mem.bitAt buf.toNat j = s.mem.bitAt buf.toNat j) ∧
    (∃ t, exec (.setbit buf len bit) s = .next t ∧
      t.mem.blobValue buf.toNat len.toNat = s.mem.blobValue buf.toNat len.toNat ||| 2 ^ bit.toNat) ∧
    (∃ t, exec (.clearbit buf len bit) s = .next t ∧
      t.mem.blobValue buf.toNat len.toNat =
        s.mem.blobValue buf.toNat len.toNat &&& (2 ^ (8 * len.toNat) - 1 - 2 ^ bit.toNat)) ∧
    (∃ t, exec (.flipbit buf len bit) s = .next t ∧
      t.mem.blobValue buf.toNat len.toNat = s.mem.blobValue buf.toNat len.toNat ^^^ 2 ^ bit.toNat) ∧
    exec (.getbit buf len bit) s = .next (s.deliver ⟨0x00#8,
      BitVec.ofNat 64 ((s.mem.blobValue buf.toNat len.toNat).testBit bit.toNat).toNat⟩) ∧
    ∀ wide : Word, exec (.getbitw buf len wide) s = .next (s.deliver ⟨0x00#8,
      BitVec.ofNat 64 ((s.mem.blobValue buf.toNat len.toNat).testBit (wide.toNat % (8 * len.toNat))).toNat⟩)

/-! ### PopulationCounter -/

/-- The five counts and parities: encoding, and RESULT the number of set bits or its parity, memory not touched (R120 to
R125). -/
def Obligations.CountsAndParitiesOfSetBits : Prop :=
  ∀ (x : Word) (y w0 w1 : DWord) (s : State),
    (encode (.popcountW32 x) = ⟨0x20#32, x, 0#32, 0#32, 0#32⟩ ∧
      exec (.popcountW32 x) s = .next (s.deliver ⟨0x00#8, BitVec.ofNat 64 (onesIn 32 x)⟩)) ∧
    (encode (.popcountW64 y) = ⟨0x21#32, y.extractLsb' 0 32, y.extractLsb' 32 32, 0#32, 0#32⟩ ∧
      exec (.popcountW64 y) s = .next (s.deliver ⟨0x00#8, BitVec.ofNat 64 (onesIn 64 y)⟩)) ∧
    (encode (.popcountW128 w0 w1) =
        ⟨0x22#32, w0.extractLsb' 0 32, w0.extractLsb' 32 32, w1.extractLsb' 0 32, w1.extractLsb' 32 32⟩ ∧
      exec (.popcountW128 w0 w1) s = .next (s.deliver ⟨0x00#8, BitVec.ofNat 64 (onesIn 64 w0 + onesIn 64 w1)⟩)) ∧
    (encode (.parityW32 x) = ⟨0x24#32, x, 0#32, 0#32, 0#32⟩ ∧
      exec (.parityW32 x) s = .next (s.deliver ⟨0x00#8, BitVec.ofNat 64 (onesIn 32 x % 2)⟩)) ∧
    (encode (.parityW64 y) = ⟨0x25#32, y.extractLsb' 0 32, y.extractLsb' 32 32, 0#32, 0#32⟩ ∧
      exec (.parityW64 y) s = .next (s.deliver ⟨0x00#8, BitVec.ofNat 64 (onesIn 64 y % 2)⟩))

/-- The cross-check of R126 at 32 bits, and at 64 bits as R120 gives it. -/
def Obligations.ParityIsPopulationCountModTwo : Prop :=
  (∀ (x : Word) (s t u : State) (p q : Response), exec (.parityW32 x) s = .next t → exec (.popcountW32 x) s = .next u →
    t.response = some p → u.response = some q → p.result.toNat = q.result.toNat % 2) ∧
  (∀ (x : DWord) (s t u : State) (p q : Response), exec (.parityW64 x) s = .next t → exec (.popcountW64 x) s = .next u →
    t.response = some p → u.response = some q → p.result.toNat = q.result.toNat % 2)

/-- The count of a 64-bit value is the sum of the counts of its halves, and its parity the exclusive-or of theirs (R122,
R125). -/
def Obligations.WideCountsAddTheirHalves : Prop :=
  ∀ x : DWord,
    pop 64 x.toNat = pop 32 (x.extractLsb' 0 32).toNat + pop 32 (x.extractLsb' 32 32).toNat ∧
    par 64 x.toNat = xor (par 32 (x.extractLsb' 0 32).toNat) (par 32 (x.extractLsb' 32 32).toNat)

/-! ### Shifts -/

/-- The eight blob shifts (R140 to R147, R221, R222): encoding, faults in their order, and otherwise the final content
bit by bit, zeros shifted in, no byte outside the blob changed, RESULT 0. Bit `k` of the new blob is bit `k - c` (left)
or `k + c` (right) of the old one if that bit exists. -/
def Obligations.BlobShiftsMoveEveryBit : Prop :=
  ∀ (buf len c : Word) (s : State) (i : Instr) (w : Word) (left : Bool),
    (i, w, left) ∈
      [(Instr.lshift buf len c, 0x30#32, true), (.lshiftG1 buf len c, 0x130#32, true),
       (.lshiftG8 buf len c, 0x230#32, true), (.lshiftG32 buf len c, 0x330#32, true),
       (.rshift buf len c, 0x31#32, false), (.rshiftG1 buf len c, 0x131#32, false),
       (.rshiftG8 buf len c, 0x231#32, false), (.rshiftG32 buf len c, 0x331#32, false)] →
    encode i = ⟨w, buf, len, c, 0#32⟩ ∧
    (¬ Admitted s.params buf len → exec i s = .next (s.deliver ⟨0x02#8, 0#64⟩)) ∧
    (Admitted s.params buf len → w.extractLsb' 8 2 = 3#2 → len.toNat % 4 ≠ 0 →
      exec i s = .next (s.deliver ⟨0x03#8, 0#64⟩)) ∧
    (Admitted s.params buf len → (w.extractLsb' 8 2 = 3#2 → len.toNat % 4 = 0) → c.toInt < 0 →
      exec i s = .next (s.deliver ⟨0x05#8, 0#64⟩)) ∧
    (Admitted s.params buf len → (w.extractLsb' 8 2 = 3#2 → len.toNat % 4 = 0) → 0 ≤ c.toInt →
      ∃ m, exec i s = .next ((s.withMem m).deliver ⟨0x00#8, 0#64⟩) ∧
        SameOutside buf.toNat len.toNat s.mem m ∧
        ∀ k, k < 8 * len.toNat → m.bitAt buf.toNat k =
          if left then decide (c.toInt ≤ k) && s.mem.bitAt buf.toNat (k - c.toInt.toNat)
          else decide (k + c.toInt < 8 * len.toNat) && s.mem.bitAt buf.toNat (k + c.toInt.toNat))

/-- The four value shifts (R151 to R154): encoding, BAD_AMOUNT for a negative amount, and otherwise RESULT bit by bit;
an amount of the width or more gives 0. Memory is not touched. -/
def Obligations.ValueShiftsMoveEveryBit : Prop :=
  ∀ (x : DWord) (z c : Word) (s : State) (i : Instr) (p : Packet) (N : Nat) (v : Nat → Bool) (left : Bool),
    (i, p, N, v, left) ∈
      [(Instr.lshiftW32 z c, Packet.mk 0x34#32 z 0#32 c 0#32, 32, z.getLsbD, true),
       (.rshiftW32 z c, ⟨0x35#32, z, 0#32, c, 0#32⟩, 32, z.getLsbD, false),
       (.lshiftW64 x c, ⟨0x36#32, x.extractLsb' 0 32, x.extractLsb' 32 32, c, 0#32⟩, 64, x.getLsbD, true),
       (.rshiftW64 x c, ⟨0x37#32, x.extractLsb' 0 32, x.extractLsb' 32 32, c, 0#32⟩, 64, x.getLsbD, false)] →
    encode i = p ∧
    (c.toInt < 0 → exec i s = .next (s.deliver ⟨0x05#8, 0#64⟩)) ∧
    (0 ≤ c.toInt → ∃ r, exec i s = .next (s.deliver ⟨0x00#8, r⟩) ∧
      ∀ k, k < 64 → r.getLsbD k =
        (decide (k < N) &&
          if left then decide (c.toInt ≤ k) && v (k - c.toInt.toNat)
          else decide (k + c.toInt < N) && v (k + c.toInt.toNat)))

/-- Two shifts the same way add their amounts; a left shift and the same right shift lose the top bits (R155). -/
def Obligations.ShiftsCompose : Prop :=
  ∀ V n a b : Nat, V < 2 ^ n →
    shl (shl V n a) n b = shl V n (a + b) ∧ shr (shr V n a) n b = shr V n (a + b) ∧
    (a ≤ n → shr (shl V n a) n a = V % 2 ^ (n - a))

/-! ### Rotates -/

/-- The eight blob rotates (R170, R172, R223, R224): encoding, faults, nothing at `len = 0`, and otherwise every bit
moved round by the reduced amount, no byte outside the blob changed, RESULT 0. No amount faults. -/
def Obligations.BlobRotatesMoveEveryBit : Prop :=
  ∀ (buf len c : Word) (s : State) (i : Instr) (w : Word) (left : Bool),
    (i, w, left) ∈
      [(Instr.lrot buf len c, 0x40#32, true), (.lrotG1 buf len c, 0x140#32, true),
       (.lrotG8 buf len c, 0x240#32, true), (.lrotG32 buf len c, 0x340#32, true),
       (.rrot buf len c, 0x41#32, false), (.rrotG1 buf len c, 0x141#32, false),
       (.rrotG8 buf len c, 0x241#32, false), (.rrotG32 buf len c, 0x341#32, false)] →
    encode i = ⟨w, buf, len, c, 0#32⟩ ∧
    (¬ Admitted s.params buf len → exec i s = .next (s.deliver ⟨0x02#8, 0#64⟩)) ∧
    (Admitted s.params buf len → w.extractLsb' 8 2 = 3#2 → len.toNat % 4 ≠ 0 →
      exec i s = .next (s.deliver ⟨0x03#8, 0#64⟩)) ∧
    (Admitted s.params buf len → len.toNat = 0 → exec i s = .next (s.deliver ⟨0x00#8, 0#64⟩)) ∧
    (Admitted s.params buf len → (w.extractLsb' 8 2 = 3#2 → len.toNat % 4 = 0) → 0 < len.toNat →
      ∃ m, exec i s = .next ((s.withMem m).deliver ⟨0x00#8, 0#64⟩) ∧
        SameOutside buf.toNat len.toNat s.mem m ∧
        ∀ k, k < 8 * len.toNat → m.bitAt buf.toNat k =
          s.mem.bitAt buf.toNat
            ((if left then (k : Int) - c.toInt else (k : Int) + c.toInt) % ((8 * len.toNat : Nat) : Int)).toNat)

/-- The four value rotates (R171, R181 to R184): encoding, and RESULT bit by bit, the amount taken modulo the width.
They never fault and do not touch memory. -/
def Obligations.ValueRotatesMoveEveryBit : Prop :=
  ∀ (x : DWord) (z c : Word) (s : State) (i : Instr) (p : Packet) (N : Nat) (v : Nat → Bool) (left : Bool),
    (i, p, N, v, left) ∈
      [(Instr.lrotW32 z c, Packet.mk 0x44#32 z 0#32 c 0#32, 32, z.getLsbD, true),
       (.rrotW32 z c, ⟨0x45#32, z, 0#32, c, 0#32⟩, 32, z.getLsbD, false),
       (.lrotW64 x c, ⟨0x46#32, x.extractLsb' 0 32, x.extractLsb' 32 32, c, 0#32⟩, 64, x.getLsbD, true),
       (.rrotW64 x c, ⟨0x47#32, x.extractLsb' 0 32, x.extractLsb' 32 32, c, 0#32⟩, 64, x.getLsbD, false)] →
    encode i = p ∧
    ∃ r, exec i s = .next (s.deliver ⟨0x00#8, r⟩) ∧
      ∀ k, k < 64 → r.getLsbD k =
        (decide (k < N) && v ((if left then (k : Int) - c.toInt else (k : Int) + c.toInt) % (N : Int)).toNat)

/-- `rrot` undoes `lrot` and `lrot` undoes `rrot`, for every blob and every amount (R180). -/
def Obligations.RotatesUndoEachOther : Prop :=
  ∀ (buf len c : Word) (s t u : State), Admitted s.params buf len →
    (exec (.lrot buf len c) s = .next t → exec (.rrot buf len c) t = .next u →
      ∀ a, u.mem.read a = s.mem.read a) ∧
    (exec (.rrot buf len c) s = .next t → exec (.lrot buf len c) t = .next u →
      ∀ a, u.mem.read a = s.mem.read a)

/-- A rotate never changes the number of set bits of the blob (R170). -/
def Obligations.RotatesKeepTheNumberOfSetBits : Prop :=
  ∀ (buf len c : Word) (s t : State) (i : Instr),
    i ∈ [Instr.lrot buf len c, .lrotG1 buf len c, .lrotG8 buf len c, .lrotG32 buf len c,
         .rrot buf len c, .rrotG1 buf len c, .rrotG8 buf len c, .rrotG32 buf len c] →
    exec i s = .next t →
    pop (8 * len.toNat) (t.mem.blobValue buf.toNat len.toNat) =
      pop (8 * len.toNat) (s.mem.blobValue buf.toNat len.toNat)

/-! ### Windows -/

/-- The three blob windows (R200, R201, R227): encoding, faults in their order, and otherwise the window bit by bit,
circular, zero above `count` bits; memory is not written. -/
def Obligations.BlobWindowsExtractCircularly : Prop :=
  ∀ (buf len start count : Word) (s : State) (i : Instr) (w : Word),
    (i, w) ∈
      [(Instr.window buf len start count, 0x50#32), (.windowG8 buf len start count, 0x250#32),
       (.windowG32 buf len start count, 0x350#32)] →
    encode i = ⟨w, buf, len, start, count⟩ ∧
    (¬ Admitted s.params buf len → exec i s = .next (s.deliver ⟨0x02#8, 0#64⟩)) ∧
    (Admitted s.params buf len → len.toNat = 0 → exec i s = .next (s.deliver ⟨0x02#8, 0#64⟩)) ∧
    (Admitted s.params buf len → 0 < len.toNat → w = 0x350#32 → len.toNat % 4 ≠ 0 →
      exec i s = .next (s.deliver ⟨0x03#8, 0#64⟩)) ∧
    (Admitted s.params buf len → 0 < len.toNat → (w = 0x350#32 → len.toNat % 4 = 0) →
      (count.toNat < 1 ∨ 32 < count.toNat ∨ 8 * len.toNat < count.toNat) →
      exec i s = .next (s.deliver ⟨0x06#8, 0#64⟩)) ∧
    (Admitted s.params buf len → 0 < len.toNat → (w = 0x350#32 → len.toNat % 4 = 0) →
      1 ≤ count.toNat → count.toNat ≤ 32 → count.toNat ≤ 8 * len.toNat →
      ∃ r, exec i s = .next (s.deliver ⟨0x00#8, r⟩) ∧
        ∀ k, k < 64 → r.getLsbD k =
          (decide (k < count.toNat) && s.mem.bitAt buf.toNat ((start.toNat + k) % (8 * len.toNat))))

/-- The two value windows (R204, R205): encoding, BAD_COUNT, and otherwise the window bit by bit. -/
def Obligations.ValueWindowsExtractCircularly : Prop :=
  ∀ (x : DWord) (z start count : Word) (s : State) (i : Instr) (p : Packet) (N : Nat) (v : Nat → Bool),
    (i, p, N, v) ∈
      [(Instr.windowW32 z start count, Packet.mk 0x54#32 z 0#32 start count, 32, z.getLsbD),
       (.windowW64 x start count, ⟨0x56#32, x.extractLsb' 0 32, x.extractLsb' 32 32, start, count⟩, 64, x.getLsbD)] →
    encode i = p ∧
    ((count.toNat < 1 ∨ 32 < count.toNat) → exec i s = .next (s.deliver ⟨0x06#8, 0#64⟩)) ∧
    (1 ≤ count.toNat → count.toNat ≤ 32 →
      ∃ r, exec i s = .next (s.deliver ⟨0x00#8, r⟩) ∧
        ∀ k, k < 64 → r.getLsbD k = (decide (k < count.toNat) && v ((start.toNat + k) % N)))

/-- A window is `getbitw(start + j)` collected over `j = 0 .. count-1`, and the low `count` bits of the blob after
`rrot buf, len, start` (R206), where `start + j` and `start` fit the operands of those commands. -/
def Obligations.WindowCollectsWrappedBits : Prop :=
  ∀ (buf len start count : Word) (s t : State) (r : Response),
    exec (.window buf len start count) s = .next t → t.response = some r → r.status = 0x00#8 →
    (∀ (j : Nat) (bit : Word), j < count.toNat → bit.toNat = start.toNat + j →
      exec (.getbitw buf len bit) s = .next (s.deliver ⟨0x00#8, if r.result.getLsbD j then 1#64 else 0#64⟩)) ∧
    (start.toNat < 2 ^ 31 → ∃ u, exec (.rrot buf len start) s = .next u ∧
      r.result.toNat = u.mem.blobValue buf.toNat len.toNat % 2 ^ count.toNat)

/-! ### Dispatcher and strategies -/

/-- The granularity is not observable where the commands complete: AUTO acts as the strategy `select` chooses, and G1
and G8 act alike, G32 too when the length is a multiple of 4 (R220 to R225, R227). -/
def Obligations.GranularityIsNotObservable : Prop :=
  ∀ (buf len x y : Word) (s : State),
    (exec (.lshift buf len x) s =
        exec (if select len.toNat = .g32 then .lshiftG32 buf len x else .lshiftG8 buf len x) s ∧
      exec (.rshift buf len x) s =
        exec (if select len.toNat = .g32 then .rshiftG32 buf len x else .rshiftG8 buf len x) s ∧
      exec (.lrot buf len x) s =
        exec (if select len.toNat = .g32 then .lrotG32 buf len x else .lrotG8 buf len x) s ∧
      exec (.rrot buf len x) s =
        exec (if select len.toNat = .g32 then .rrotG32 buf len x else .rrotG8 buf len x) s ∧
      exec (.window buf len x y) s =
        exec (if select len.toNat = .g32 then .windowG32 buf len x y else .windowG8 buf len x y) s) ∧
    (exec (.lshiftG1 buf len x) s = exec (.lshiftG8 buf len x) s ∧
      exec (.rshiftG1 buf len x) s = exec (.rshiftG8 buf len x) s ∧
      exec (.lrotG1 buf len x) s = exec (.lrotG8 buf len x) s ∧
      exec (.rrotG1 buf len x) s = exec (.rrotG8 buf len x) s) ∧
    (len.toNat % 4 = 0 →
      exec (.lshiftG32 buf len x) s = exec (.lshiftG8 buf len x) s ∧
      exec (.rshiftG32 buf len x) s = exec (.rshiftG8 buf len x) s ∧
      exec (.lrotG32 buf len x) s = exec (.lrotG8 buf len x) s ∧
      exec (.rrotG32 buf len x) s = exec (.rrotG8 buf len x) s ∧
      exec (.windowG32 buf len x y) s = exec (.windowG8 buf len x y) s)

/-- The in-place 1-bit shift loops leave the bytes the commands leave (R142, R143, R148, R150). -/
def Obligations.OneBitShiftStrategyAgrees : Prop :=
  ∀ (buf len c : Word) (s : State), Admitted s.params buf len → 0 ≤ c.toInt →
    (∃ m, exec (.lshiftG1 buf len c) s = .next ((s.withMem m).deliver ⟨0x00#8, 0#64⟩) ∧
      ∀ a, m.read a = (lshiftByBits s.mem buf.toNat len.toNat c.toInt.toNat).read a) ∧
    (∃ m, exec (.rshiftG1 buf len c) s = .next ((s.withMem m).deliver ⟨0x00#8, 0#64⟩) ∧
      ∀ a, m.read a = (rshiftByBits s.mem buf.toNat len.toNat c.toInt.toNat).read a)

/-- The in-place byte shift loops leave the bytes the commands leave (R144, R145, R148, R150). -/
def Obligations.ByteShiftStrategyAgrees : Prop :=
  ∀ (buf len c : Word) (s : State), Admitted s.params buf len → 0 ≤ c.toInt →
    (∃ m, exec (.lshiftG8 buf len c) s = .next ((s.withMem m).deliver ⟨0x00#8, 0#64⟩) ∧
      ∀ a, m.read a = (lshiftByBytes s.mem buf.toNat len.toNat c.toInt.toNat).read a) ∧
    (∃ m, exec (.rshiftG8 buf len c) s = .next ((s.withMem m).deliver ⟨0x00#8, 0#64⟩) ∧
      ∀ a, m.read a = (rshiftByBytes s.mem buf.toNat len.toNat c.toInt.toNat).read a)

/-- The in-place word shift loops leave the bytes the commands leave (R146, R147, R148, R150). -/
def Obligations.WordShiftStrategyAgrees : Prop :=
  ∀ (buf len c : Word) (s : State), Admitted s.params buf len → len.toNat % 4 = 0 → 0 ≤ c.toInt →
    (∃ m, exec (.lshiftG32 buf len c) s = .next ((s.withMem m).deliver ⟨0x00#8, 0#64⟩) ∧
      ∀ a, m.read a = (lshiftByWords s.mem buf.toNat len.toNat c.toInt.toNat).read a) ∧
    (∃ m, exec (.rshiftG32 buf len c) s = .next ((s.withMem m).deliver ⟨0x00#8, 0#64⟩) ∧
      ∀ a, m.read a = (rshiftByWords s.mem buf.toNat len.toNat c.toInt.toNat).read a)

/-- The one-bit rotate passes leave the bytes the commands leave (R174, R175, R180). -/
def Obligations.OneBitRotateStrategyAgrees : Prop :=
  ∀ (buf len c : Word) (s : State), Admitted s.params buf len → 0 < len.toNat →
    (∃ m, exec (.lrotG1 buf len c) s = .next ((s.withMem m).deliver ⟨0x00#8, 0#64⟩) ∧
      ∀ a, m.read a =
        (lrotByBits s.mem buf.toNat len.toNat (c.toInt % ((8 * len.toNat : Nat) : Int)).toNat).read a) ∧
    (∃ m, exec (.rrotG1 buf len c) s = .next ((s.withMem m).deliver ⟨0x00#8, 0#64⟩) ∧
      ∀ a, m.read a =
        (rrotByBits s.mem buf.toNat len.toNat (c.toInt % ((8 * len.toNat : Nat) : Int)).toNat).read a)

/-- The byte rotates from a copy leave the bytes the commands leave (R176, R177, R180). -/
def Obligations.ByteRotateStrategyAgrees : Prop :=
  ∀ (buf len c : Word) (s : State), Admitted s.params buf len → 0 < len.toNat →
    (∃ m, exec (.lrotG8 buf len c) s = .next ((s.withMem m).deliver ⟨0x00#8, 0#64⟩) ∧
      ∀ a, m.read a =
        (lrotByBytes s.mem buf.toNat len.toNat (c.toInt % ((8 * len.toNat : Nat) : Int)).toNat).read a) ∧
    (∃ m, exec (.rrotG8 buf len c) s = .next ((s.withMem m).deliver ⟨0x00#8, 0#64⟩) ∧
      ∀ a, m.read a =
        (rrotByBytes s.mem buf.toNat len.toNat (c.toInt % ((8 * len.toNat : Nat) : Int)).toNat).read a)

/-- The word rotates from a copy leave the bytes the commands leave (R178, R179, R180). -/
def Obligations.WordRotateStrategyAgrees : Prop :=
  ∀ (buf len c : Word) (s : State), Admitted s.params buf len → 0 < len.toNat → len.toNat % 4 = 0 →
    (∃ m, exec (.lrotG32 buf len c) s = .next ((s.withMem m).deliver ⟨0x00#8, 0#64⟩) ∧
      ∀ a, m.read a =
        (lrotByWords s.mem buf.toNat len.toNat (c.toInt % ((8 * len.toNat : Nat) : Int)).toNat).read a) ∧
    (∃ m, exec (.rrotG32 buf len c) s = .next ((s.withMem m).deliver ⟨0x00#8, 0#64⟩) ∧
      ∀ a, m.read a =
        (rrotByWords s.mem buf.toNat len.toNat (c.toInt % ((8 * len.toNat : Nat) : Int)).toNat).read a)

/-- The byte and word windows return the RESULT the commands return (R202, R203, R206). -/
def Obligations.WindowStrategiesAgree : Prop :=
  ∀ (buf len start count : Word) (s : State), Admitted s.params buf len → 0 < len.toNat →
    1 ≤ count.toNat → count.toNat ≤ 32 → count.toNat ≤ 8 * len.toNat →
    exec (.windowG8 buf len start count) s = .next (s.deliver ⟨0x00#8,
      BitVec.ofNat 64 (windowByBytes s.mem buf.toNat len.toNat start.toNat count.toNat)⟩) ∧
    (len.toNat % 4 = 0 →
      exec (.windowG32 buf len start count) s = .next (s.deliver ⟨0x00#8,
        BitVec.ofNat 64 (windowByWords s.mem buf.toNat len.toNat start.toNat count.toNat)⟩))

/-! ### Value forms equal blob forms -/

/-- A 4-byte blob that holds `x` little-endian (R42) and the 32-bit value forms of `x`: the table of R226 at N = 32. -/
def Obligations.FourByteBlobActsAsItsValue : Prop :=
  ∀ (s : State) (buf x c start count : Word), Admitted s.params buf 4#32 →
    (∀ k, k < 4 → s.mem.read (buf.toNat + k) = x.extractLsb' (8 * k) 8) →
    (∀ i j, (i, j) ∈ [(Instr.lshift buf 4#32 c, Instr.lshiftW32 x c), (.rshift buf 4#32 c, .rshiftW32 x c)] →
      (c.toInt < 0 → exec i s = .next (s.deliver ⟨0x05#8, 0#64⟩) ∧ exec j s = .next (s.deliver ⟨0x05#8, 0#64⟩)) ∧
      (0 ≤ c.toInt → ∃ m r, exec i s = .next ((s.withMem m).deliver ⟨0x00#8, 0#64⟩) ∧
        exec j s = .next (s.deliver ⟨0x00#8, r⟩) ∧ m.blobValue buf.toNat 4 = r.toNat)) ∧
    (∀ i j, (i, j) ∈ [(Instr.lrot buf 4#32 c, Instr.lrotW32 x c), (.rrot buf 4#32 c, .rrotW32 x c)] →
      ∃ m r, exec i s = .next ((s.withMem m).deliver ⟨0x00#8, 0#64⟩) ∧
        exec j s = .next (s.deliver ⟨0x00#8, r⟩) ∧ m.blobValue buf.toNat 4 = r.toNat) ∧
    (1 ≤ count.toNat → count.toNat ≤ 32 →
      exec (.window buf 4#32 start count) s = exec (.windowW32 x start count) s)

/-- An 8-byte blob that holds `x` little-endian and the 64-bit value forms of `x`: the table of R226 at N = 64. -/
def Obligations.EightByteBlobActsAsItsValue : Prop :=
  ∀ (s : State) (x : DWord) (buf c start count : Word), Admitted s.params buf 8#32 →
    (∀ k, k < 8 → s.mem.read (buf.toNat + k) = x.extractLsb' (8 * k) 8) →
    (∀ i j, (i, j) ∈ [(Instr.lshift buf 8#32 c, Instr.lshiftW64 x c), (.rshift buf 8#32 c, .rshiftW64 x c)] →
      (c.toInt < 0 → exec i s = .next (s.deliver ⟨0x05#8, 0#64⟩) ∧ exec j s = .next (s.deliver ⟨0x05#8, 0#64⟩)) ∧
      (0 ≤ c.toInt → ∃ m r, exec i s = .next ((s.withMem m).deliver ⟨0x00#8, 0#64⟩) ∧
        exec j s = .next (s.deliver ⟨0x00#8, r⟩) ∧ m.blobValue buf.toNat 8 = r.toNat)) ∧
    (∀ i j, (i, j) ∈ [(Instr.lrot buf 8#32 c, Instr.lrotW64 x c), (.rrot buf 8#32 c, .rrotW64 x c)] →
      ∃ m r, exec i s = .next ((s.withMem m).deliver ⟨0x00#8, 0#64⟩) ∧
        exec j s = .next (s.deliver ⟨0x00#8, r⟩) ∧ m.blobValue buf.toNat 8 = r.toNat) ∧
    (1 ≤ count.toNat → count.toNat ≤ 32 →
      exec (.window buf 8#32 start count) s = exec (.windowW64 x start count) s)

/-! ### The host and blob memory -/

/-- A host that writes a byte outside the blob in flight, if there is one, reads it back, and its reads change nothing:
plain storage (R27, R40, R48). Every other byte keeps its value, and the command in flight is not disturbed (R275).
Which bytes the blob in flight is, `State.claims` says: none if the command will fault (log entry 6). -/
def Obligations.HostReadsBackWhatItWrote : Prop :=
  ∀ (s : State) (a : Nat) (b : Byte) (rest : List HostMove), a < 2 ^ 32 → s.claims a = false →
    s.moves = .store a b :: .load a :: rest →
    ∃ t, Sys2Proof.core.run 2 s = .next t ∧ t.reads = s.reads ++ [b] ∧ t.moves = rest ∧
      t.response = s.response ∧ t.record = s.record ∧ t.inFlight = s.inFlight ∧ t.raced = s.raced ∧ t.draws = s.draws ∧
      t.mem.read a = b ∧ ∀ a', a' ≠ a → t.mem.read a' = s.mem.read a'

/-- A host that names an address R27 says does not exist stops the model (log entry 5, the model's choice). -/
def Obligations.HostAccessOutsideTheAddressSpaceStops : Prop :=
  ∀ (s : State) (a : Nat) (b : Byte) (rest : List HostMove), 2 ^ 32 ≤ a →
    (s.moves = .store a b :: rest → step s = .fault (.noSuchAddress a)) ∧
    (s.moves = .load a :: rest → step s = .fault (.noSuchAddress a))

/-- As long as the host keeps off the blob in flight, no command is raced and no free value is drawn but by a reset, so
that the command is atomic (R47, R275). Two readings are the model's: the blob in flight is that of a command that will
complete, since one that faults accesses no memory (log entry 6, DEDUCED), and what R275 leaves unspecified is a draw
counted by `draws` (log entry 7). -/
def Obligations.ExclusiveUseNeverRaces : Prop :=
  ∀ s t : State, s.exclusive = true → step s = .next t →
    t.raced = false ∧ ((∀ rest, s.moves ≠ .reset :: rest) → t.draws = s.draws)

/-- The race of R275, with a command in flight that would complete. A foreign write into its blob is stored, is not
detected by the unit, and makes the command a raced one; a foreign read there returns a draw and changes no byte. A raced
command ends with STATUS 0, every byte of its blob and RESULT a draw, and no byte outside the blob changed. That only a
command that would complete can race, and that its STATUS is 0, are the model's readings (log entry 6, DEDUCED); the form
of the draws is the model's too (log entry 7), and the statement holds whatever the free values are. -/
def Obligations.RacedCommandStillCompletes : Prop :=
  ∀ (s t : State) (p : Packet) (i : Instr) (buf len : Nat) (r : Response),
    s.inFlight = some p → decode p = .ok i → blobOf i = some (buf, len) →
    exec i s = .next t → t.response = some r → r.status = 0x00#8 →
    (∀ a b rest, buf ≤ a → a < buf + len → s.moves = .store a b :: rest →
      ∃ u, step s = .next u ∧ u.raced = true ∧ u.inFlight = some p ∧ u.moves = rest ∧ u.response = s.response ∧
        u.draws = s.draws ∧ u.mem.read a = b ∧ ∀ a', a' ≠ a → u.mem.read a' = s.mem.read a') ∧
    (∀ a rest, buf ≤ a → a < buf + len → s.moves = .load a :: rest →
      ∃ u, step s = .next u ∧ u.reads = s.reads ++ [Config.freeByte s.draws] ∧ u.draws = s.draws + 1 ∧
        u.mem = s.mem ∧ u.raced = s.raced ∧ u.inFlight = some p ∧ u.moves = rest ∧ u.response = s.response) ∧
    (s.raced = true → HostWaits s →
      ∃ u, step s = .next u ∧ u.inFlight = none ∧ u.raced = false ∧ SameOutside buf len s.mem u.mem ∧
        u.draws = s.draws + len + 1 ∧ u.response = some ⟨0x00#8, Config.freeResult (s.draws + len)⟩ ∧
        ∀ k, k < len → u.mem.read (buf + k) = Config.freeByte (s.draws + k))

/-- A run that has gone wrong stays so, over a reset too: once a response with a non-zero STATUS was delivered, whether
the host has consumed it or not, no step forgets it (R245; that the model keeps it in `record` is log entry 4). -/
def Obligations.GoneWrongIsKept : Prop :=
  ∀ s t : State, s.inv = true → s.goneWrong = true → step s = .next t → t.goneWrong = true
end

