-- ==== Sys2Proof/Laws/Memory.lean ====
section
/-! SUPPORT. The laws of blob memory: a read after a write, the canonical form and that every operation keeps it,
runs of bytes, bits, words and values of a blob. The read laws hold of every list of cells, canonical or not. -/

set_option Elab.async false

namespace Sys2Proof.Machine

/-! ### Cells -/

theorem lookupCell_dropCell_same (a : Nat) (l : List Host.Cell) : lookupCell (dropCell a l) a = none := by
  induction l with
  | nil => rfl
  | cons c rest ih =>
    obtain ⟨b, w⟩ := c
    by_cases h : b = a <;> simp [dropCell, lookupCell, h, ih]

theorem lookupCell_dropCell_other {a b : Nat} (h : b ≠ a) (l : List Host.Cell) :
    lookupCell (dropCell a l) b = lookupCell l b := by
  induction l with
  | nil => rfl
  | cons c rest ih =>
    obtain ⟨x, w⟩ := c
    by_cases hx : x = a
    · subst hx; simp [dropCell, lookupCell, ih, h.symm]
    · simp [dropCell, lookupCell, hx, ih]

theorem lookupCell_insertCell_same {a : Nat} (v : Byte) {l : List Host.Cell} (h : lookupCell l a = none) :
    lookupCell (insertCell a v l) a = some v := by
  induction l with
  | nil => simp [insertCell, lookupCell]
  | cons c rest ih =>
    obtain ⟨x, w⟩ := c
    by_cases hx : x = a
    · simp [lookupCell, hx] at h
    · simp only [lookupCell, hx, if_false] at h
      unfold insertCell
      split <;> simp [lookupCell, hx, ih h]

theorem lookupCell_insertCell_other {a b : Nat} (h : b ≠ a) (v : Byte) (l : List Host.Cell) :
    lookupCell (insertCell a v l) b = lookupCell l b := by
  induction l with
  | nil => simp [insertCell, lookupCell, h.symm]
  | cons c rest ih =>
    obtain ⟨x, w⟩ := c
    unfold insertCell
    split
    · simp [lookupCell, h.symm]
    · simp only [lookupCell, ih]

theorem cellsOk_weaken {bg : Background} {l : List Host.Cell} {p q : Nat} (h : cellsOk bg p l = true) (hq : q ≤ p) :
    cellsOk bg q l = true := by
  cases l with
  | nil => rfl
  | cons c r =>
    simp only [cellsOk, Bool.and_eq_true, decide_eq_true_eq] at h ⊢
    exact ⟨⟨⟨by omega, h.1.1.2⟩, h.1.2⟩, h.2⟩

theorem cellsOk_dropCell {bg : Background} (a : Nat) {l : List Host.Cell} {lo : Nat} (h : cellsOk bg lo l = true) :
    cellsOk bg lo (dropCell a l) = true := by
  induction l generalizing lo with
  | nil => rfl
  | cons c rest ih =>
    obtain ⟨b, w⟩ := c
    simp only [cellsOk, Bool.and_eq_true, decide_eq_true_eq] at h
    unfold dropCell
    split
    · exact ih (cellsOk_weaken h.2 (by omega))
    · simp only [cellsOk, Bool.and_eq_true, decide_eq_true_eq]
      exact ⟨h.1, ih h.2⟩

theorem cellsOk_insertCell {bg : Background} {a : Nat} {v : Byte} (ha : a < 2 ^ 32) (hv : v ≠ bg.byte a)
    {l : List Host.Cell} {lo : Nat} (h : cellsOk bg lo l = true) (hn : lookupCell l a = none) (hlo : lo ≤ a) :
    cellsOk bg lo (insertCell a v l) = true := by
  induction l generalizing lo with
  | nil => simp only [insertCell, cellsOk, Bool.and_eq_true, decide_eq_true_eq]; exact ⟨⟨⟨hlo, ha⟩, hv⟩, trivial⟩
  | cons c rest ih =>
    obtain ⟨b, w⟩ := c
    simp only [cellsOk, Bool.and_eq_true, decide_eq_true_eq] at h
    have hba : b ≠ a := fun e => by simp [lookupCell, e] at hn
    simp only [lookupCell, hba, if_false] at hn
    unfold insertCell
    split
    · simp only [cellsOk, Bool.and_eq_true, decide_eq_true_eq]
      exact ⟨⟨⟨hlo, ha⟩, hv⟩, ⟨⟨by omega, h.1.1.2⟩, h.1.2⟩, h.2⟩
    · simp only [cellsOk, Bool.and_eq_true, decide_eq_true_eq]
      exact ⟨h.1, ih h.2 hn (by omega)⟩

theorem lookupCell_none_of_lt {bg : Background} {a : Nat} {l : List Host.Cell} {lo : Nat} (h : cellsOk bg lo l = true)
    (ha : a < lo) : lookupCell l a = none := by
  induction l generalizing lo with
  | nil => rfl
  | cons c rest ih =>
    simp only [cellsOk, Bool.and_eq_true, decide_eq_true_eq] at h
    have hne : c.1 ≠ a := by omega
    simp only [lookupCell, hne, if_false]
    exact ih h.2 (by omega)

/-! ### One byte -/

@[simp] theorem Memory.write_background (m : Memory) (a : Nat) (v : Byte) :
    (m.write a v).background = m.background := rfl

@[simp] theorem Memory.read_write_same (m : Memory) (a : Nat) (v : Byte) : (m.write a v).read a = v := by
  unfold Memory.read Memory.write putCell
  split
  · next h => simp [lookupCell_dropCell_same, h]
  · simp [lookupCell_insertCell_same v (lookupCell_dropCell_same a m.cells)]

theorem Memory.read_write_other (m : Memory) {a b : Nat} (v : Byte) (h : b ≠ a) : (m.write a v).read b = m.read b := by
  unfold Memory.read Memory.write putCell
  split
  · simp [lookupCell_dropCell_other h]
  · simp [lookupCell_insertCell_other h, lookupCell_dropCell_other h]

/-- Everything a byte write does (R41). -/
theorem Memory.read_write (m : Memory) (a b : Nat) (v : Byte) :
    (m.write a v).read b = if b = a then v else m.read b := by
  split
  · next h => rw [h, Memory.read_write_same]
  · next h => exact Memory.read_write_other m v h

theorem Memory.write_wf {m : Memory} (h : m.wf = true) {a : Nat} (ha : a < 2 ^ 32) (v : Byte) :
    (m.write a v).wf = true := by
  unfold Memory.wf Memory.write putCell at *
  simp only
  split
  · exact cellsOk_dropCell a h
  · next hv => exact cellsOk_insertCell ha hv (cellsOk_dropCell a h) (lookupCell_dropCell_same a _) (Nat.zero_le a)

/-- Equal memories are equal data: two canonical lists that read alike are one list. -/
theorem cellsOk_ext {bg : Background} {l l' : List Host.Cell} {lo : Nat} (h : cellsOk bg lo l = true)
    (h' : cellsOk bg lo l' = true)
    (hr : ∀ a, (lookupCell l a).getD (bg.byte a) = (lookupCell l' a).getD (bg.byte a)) : l = l' := by
  induction l generalizing lo l' with
  | nil =>
    cases l' with
    | nil => rfl
    | cons c r =>
      simp only [cellsOk, Bool.and_eq_true, decide_eq_true_eq] at h'
      have := hr c.1
      simp only [lookupCell, if_true, Option.getD_some, Option.getD_none] at this
      exact absurd this.symm h'.1.2
  | cons c rest ih =>
    obtain ⟨b, w⟩ := c
    cases l' with
    | nil =>
      simp only [cellsOk, Bool.and_eq_true, decide_eq_true_eq] at h
      have := hr b
      simp only [lookupCell, if_true, Option.getD_some, Option.getD_none] at this
      exact absurd this h.1.2
    | cons d rest' =>
      obtain ⟨b', w'⟩ := d
      have hb : b = b' := by
        rcases Nat.lt_trichotomy b b' with hlt | heq | hgt
        · simp only [cellsOk, Bool.and_eq_true, decide_eq_true_eq] at h h'
          have h1 := hr b
          have hne : b' ≠ b := by omega
          rw [lookupCell, lookupCell, if_pos rfl, if_neg hne, lookupCell_none_of_lt h'.2 (by omega)] at h1
          exact absurd h1 h.1.2
        · exact heq
        · simp only [cellsOk, Bool.and_eq_true, decide_eq_true_eq] at h h'
          have h1 := hr b'
          have hne : b ≠ b' := by omega
          rw [lookupCell, lookupCell, if_pos rfl, if_neg hne, lookupCell_none_of_lt h.2 (by omega)] at h1
          exact absurd h1.symm h'.1.2
      subst hb
      have hw : w = w' := by simpa [lookupCell] using hr b
      subst hw
      simp only [cellsOk, Bool.and_eq_true, decide_eq_true_eq] at h h'
      rw [ih h.2 h'.2]
      intro a
      by_cases hab : b = a
      · subst hab
        rw [lookupCell_none_of_lt h.2 (by omega), lookupCell_none_of_lt h'.2 (by omega)]
      · simpa [lookupCell, hab] using hr a

theorem Memory.ext_read {m m' : Memory} (h : m.wf = true) (h' : m'.wf = true) (hb : m.background = m'.background)
    (hr : ∀ a, m.read a = m'.read a) : m = m' := by
  obtain ⟨bg, l⟩ := m
  obtain ⟨bg', l'⟩ := m'
  simp only at hb
  subst hb
  have := cellsOk_ext h h' hr
  subst this
  rfl

/-! ### Runs of bytes -/

/-- Everything a run of byte writes does. -/
theorem Memory.read_fill (m : Memory) (a : Nat) (f : Nat → Byte) (k b : Nat) :
    (m.fill a f k).read b = if a ≤ b ∧ b < a + k then f (b - a) else m.read b := by
  induction k with
  | zero => simp [Memory.fill]
  | succ k ih =>
    rw [Memory.fill, Memory.read_write, ih]
    by_cases hb : b = a + k
    · subst hb; simp
    · by_cases hin : a ≤ b ∧ b < a + k
      · simp [hb, hin, show a ≤ b ∧ b < a + (k + 1) by omega]
      · simp [hb, hin, show ¬ (a ≤ b ∧ b < a + (k + 1)) by omega]

theorem Memory.fill_wf {m : Memory} (h : m.wf = true) {a : Nat} (f : Nat → Byte) {k : Nat} (hk : a + k ≤ 2 ^ 32) :
    (m.fill a f k).wf = true := by
  induction k with
  | zero => exact h
  | succ k ih => exact Memory.write_wf (ih (by omega)) (by omega) _

@[simp] theorem Memory.fill_background (m : Memory) (a : Nat) (f : Nat → Byte) (k : Nat) :
    (m.fill a f k).background = m.background := by
  induction k with
  | zero => rfl
  | succ k ih => simpa [Memory.fill] using ih

@[simp] theorem Memory.fill_zero (m : Memory) (a : Nat) (f : Nat → Byte) : m.fill a f 0 = m := rfl

/-! ### Bits of a blob -/

theorem Memory.bitAt_eq (m : Memory) (buf k j : Nat) (hj : j < 8) :
    m.bitAt buf (8 * k + j) = (m.read (buf + k)).getLsbD j := by
  unfold Memory.bitAt
  rw [show (8 * k + j) / 8 = k by omega, show (8 * k + j) % 8 = j by omega]

theorem Memory.bitAt_congr {m m' : Memory} {buf i : Nat} (h : m'.read (buf + i / 8) = m.read (buf + i / 8)) :
    m'.bitAt buf i = m.bitAt buf i := by
  unfold Memory.bitAt; rw [h]

theorem getLsbD_bitMask (i j : Nat) (hj : j < 8) : (bitMask i).getLsbD j = decide (j = i % 8) := by
  have hi : i % 8 < 8 := Nat.mod_lt _ (by omega)
  unfold bitMask
  generalize i % 8 = r at *
  interval_cases r <;> interval_cases j <;> decide

/-- What forcing a bit of a byte does to each bit (R103 to R105). -/
theorem getLsbD_putBit (b : Byte) (i j : Nat) (v : Bool) (hj : j < 8) :
    (putBit b i v).getLsbD j = if j = i % 8 then v else b.getLsbD j := by
  unfold putBit
  cases v
  · rw [if_neg (by simp), BitVec.getLsbD_and, BitVec.getLsbD_not, getLsbD_bitMask i j hj]
    by_cases h : j = i % 8 <;> simp [h, hj]
  · rw [if_pos rfl, BitVec.getLsbD_or, getLsbD_bitMask i j hj]
    by_cases h : j = i % 8 <;> simp [h]

/-- Everything `setBitAt` does to the bits of a blob: it changes one. -/
theorem Memory.bitAt_setBitAt (m : Memory) (buf i j : Nat) (v : Bool) :
    (m.setBitAt buf i v).bitAt buf j = if j = i then v else m.bitAt buf j := by
  have hj : j % 8 < 8 := Nat.mod_lt _ (by omega)
  unfold Memory.setBitAt Memory.bitAt
  rw [Memory.read_write]
  by_cases hb : j / 8 = i / 8
  · rw [if_pos (by omega), getLsbD_putBit _ _ _ _ hj, hb]
    by_cases hij : j = i
    · subst hij; simp
    · simp [hij, show j % 8 ≠ i % 8 by omega]
  · rw [if_neg (by omega), if_neg (by intro e; exact hb (by rw [e]))]

/-- `setBitAt` writes one byte of memory (R46). -/
theorem Memory.read_setBitAt_other (m : Memory) (buf i : Nat) (v : Bool) {a : Nat} (h : a ≠ buf + i / 8) :
    (m.setBitAt buf i v).read a = m.read a := Memory.read_write_other m _ h

theorem Memory.read_eq_of_bitAt {m m' : Memory} {buf k : Nat}
    (h : ∀ j, j < 8 → m'.bitAt buf (8 * k + j) = m.bitAt buf (8 * k + j)) : m'.read (buf + k) = m.read (buf + k) := by
  apply BitVec.eq_of_getLsbD_eq
  intro j hj
  have := h j hj
  rwa [Memory.bitAt_eq _ _ _ _ hj, Memory.bitAt_eq _ _ _ _ hj] at this

/-! ### The value of a blob -/

theorem Memory.blobValue_lt (m : Memory) (buf len : Nat) : m.blobValue buf len < 2 ^ (8 * len) := by
  induction len with
  | zero => simp [Memory.blobValue]
  | succ k ih =>
    have hb : (m.read (buf + k)).toNat ≤ 255 := by have := (m.read (buf + k)).isLt; omega
    have h256 : (256 : Nat) ^ k = 2 ^ (8 * k) := by rw [show (256 : Nat) = 2 ^ 8 by norm_num, ← pow_mul]
    rw [Memory.blobValue, h256, show 8 * (k + 1) = 8 * k + 8 by ring, pow_add]
    nlinarith [Nat.mul_le_mul_right (2 ^ (8 * k)) hb]

/-- Bit `i` of the blob's value is bit `i` of the blob (R11). -/
theorem Memory.testBit_blobValue (m : Memory) (buf len i : Nat) :
    (m.blobValue buf len).testBit i = (decide (i < 8 * len) && m.bitAt buf i) := by
  induction len with
  | zero => simp [Memory.blobValue]
  | succ k ih =>
    have h256 : (256 : Nat) ^ k = 2 ^ (8 * k) := by rw [show (256 : Nat) = 2 ^ 8 by norm_num, ← pow_mul]
    rw [Memory.blobValue, h256, Nat.add_comm, Nat.mul_comm,
      Nat.testBit_two_pow_mul_add _ (Memory.blobValue_lt m buf k), ih]
    by_cases hi : i < 8 * k
    · simp [hi, show i < 8 * (k + 1) by omega]
    · simp only [hi, if_false]
      by_cases hi' : i < 8 * (k + 1)
      · have h1 : i / 8 = k := by omega
        have h2 : i - 8 * k = i % 8 := by omega
        simp [Memory.bitAt, hi', h1, h2, BitVec.getLsbD]
      · have : 8 ≤ i - 8 * k := by omega
        simp only [hi', decide_false, Bool.false_and]
        exact BitVec.getLsbD_of_ge (m.read (buf + k)) _ this

/-- Everything `setBlob` does to memory. -/
theorem Memory.read_setBlob (m : Memory) (buf len V a : Nat) :
    (m.setBlob buf len V).read a =
      if buf ≤ a ∧ a < buf + len then BitVec.ofNat 8 (V >>> (8 * (a - buf))) else m.read a :=
  Memory.read_fill m buf _ len a

/-- Everything `setBlob` does to the bits of its blob. -/
theorem Memory.bitAt_setBlob (m : Memory) (buf len V i : Nat) (hi : i < 8 * len) :
    (m.setBlob buf len V).bitAt buf i = V.testBit i := by
  have hj : i % 8 < 8 := Nat.mod_lt _ (by omega)
  unfold Memory.bitAt
  rw [Memory.read_setBlob, if_pos (by omega), Nat.add_sub_cancel_left]
  simp only [BitVec.getLsbD, BitVec.toNat_ofNat, Nat.testBit_mod_two_pow, hj, decide_true, Bool.true_and,
    Nat.testBit_shiftRight]
  congr 1; omega

theorem Memory.setBlob_wf {m : Memory} (h : m.wf = true) {buf len : Nat} (V : Nat) (hk : buf + len ≤ 2 ^ 32) :
    (m.setBlob buf len V).wf = true := Memory.fill_wf h _ hk

/-- Writing a value back to a blob and reading it again. -/
theorem Memory.blobValue_setBlob (m : Memory) (buf len V : Nat) (hV : V < 2 ^ (8 * len)) :
    (m.setBlob buf len V).blobValue buf len = V := by
  apply Nat.eq_of_testBit_eq
  intro i
  rw [Memory.testBit_blobValue]
  by_cases hi : i < 8 * len
  · rw [Memory.bitAt_setBlob m buf len V i hi]; simp [hi]
  · simp only [hi, decide_false, Bool.false_and]
    exact (Nat.testBit_lt_two_pow (lt_of_lt_of_le hV (Nat.pow_le_pow_right (by omega) (by omega)))).symm

/-- The value of a blob depends on the bytes of the blob only. -/
theorem Memory.blobValue_congr {m m' : Memory} {buf len : Nat}
    (h : ∀ a, buf ≤ a → a < buf + len → m'.read a = m.read a) : m'.blobValue buf len = m.blobValue buf len := by
  induction len with
  | zero => rfl
  | succ k ih =>
    rw [Memory.blobValue, Memory.blobValue, ih (fun a h1 h2 => h a h1 (by omega)), h (buf + k) (by omega) (by omega)]

/-! ### Words (R42) -/

/-- A little-endian word, bit by bit. -/
theorem Memory.getLsbD_readWord (m : Memory) (a i : Nat) (hi : i < 32) :
    (m.readWord a).getLsbD i = (m.read (a + i / 8)).getLsbD (i % 8) := by
  unfold Memory.readWord
  rw [BitVec.getLsbD_append, BitVec.getLsbD_append, BitVec.getLsbD_append]
  by_cases h0 : i < 8
  · simp [h0, show i / 8 = 0 by omega, show i % 8 = i by omega]
  · by_cases h1 : i < 16
    · simp [h0, show i - 8 < 8 by omega, show i / 8 = 1 by omega, show i % 8 = i - 8 by omega]
    · by_cases h2 : i < 24
      · simp [h0, show ¬ i - 8 < 8 by omega, show i - 8 - 8 < 8 by omega, show i / 8 = 2 by omega,
          show i % 8 = i - 8 - 8 by omega]
      · simp [h0, show ¬ i - 8 < 8 by omega, show ¬ i - 8 - 8 < 8 by omega, show i / 8 = 3 by omega,
          show i % 8 = i - 8 - 8 - 8 by omega]

/-- Everything a word write does. -/
theorem Memory.read_writeWord (m : Memory) (a b : Nat) (v : Word) :
    (m.writeWord a v).read b =
      if a ≤ b ∧ b < a + 4 then v.extractLsb' (8 * (b - a)) 8 else m.read b := by
  unfold Memory.writeWord
  simp only [Memory.read_write]
  by_cases h3 : b = a + 3
  · subst h3; simp
  · by_cases h2 : b = a + 2
    · subst h2; simp
    · by_cases h1 : b = a + 1
      · subst h1; simp
      · by_cases h0 : b = a
        · subst h0; simp
        · simp [h0, h1, h2, h3, show ¬ (a ≤ b ∧ b < a + 4) by omega]

/-- "A byte read of `addr+k` after a word write of v to `addr` sees `v[8k+7:8k]`", so a word reads back (R42). -/
@[simp] theorem Memory.readWord_writeWord (m : Memory) (a : Nat) (v : Word) : (m.writeWord a v).readWord a = v := by
  apply BitVec.eq_of_getLsbD_eq
  intro i hi
  rw [Memory.getLsbD_readWord _ _ _ hi, Memory.read_writeWord, if_pos (by omega), BitVec.getLsbD_extractLsb']
  simp [show a + i / 8 - a = i / 8 by omega, show i % 8 < 8 by omega]
  congr 1; omega

theorem Memory.writeWord_wf {m : Memory} (h : m.wf = true) {a : Nat} (ha : a + 4 ≤ 2 ^ 32) (v : Word) :
    (m.writeWord a v).wf = true :=
  Memory.write_wf (Memory.write_wf (Memory.write_wf (Memory.write_wf h (by omega) _) (by omega) _) (by omega) _)
    (by omega) _

/-! ### Loops -/

/-- A downward loop whose body keeps a property keeps it. -/
theorem loopDown_invariant {P : Memory → Prop} {body : Nat → Memory → Memory} {k : Nat}
    (hb : ∀ i m, i < k → P m → P (body i m)) {m : Memory} (hm : P m) : P (loopDown body k m) := by
  induction k generalizing m with
  | zero => exact hm
  | succ k ih => exact ih (fun i m hi => hb i m (by omega)) (hb k m (by omega) hm)

/-- An upward loop whose body keeps a property keeps it. -/
theorem loopUp_invariant {P : Memory → Prop} {body : Nat → Memory → Memory} {k : Nat}
    (hb : ∀ i m, i < k → P m → P (body i m)) {m : Memory} (hm : P m) : P (loopUp body k m) := by
  induction k with
  | zero => exact hm
  | succ k ih => exact hb k _ (by omega) (ih (fun i m hi => hb i m (by omega)))

end Sys2Proof.Machine
end

