-- ==== Sys2Proof/Laws/Reference.lean ====
section
/-! SUPPORT. The reference functions bit by bit (R13, R120, R200) and their bounds. -/

set_option Elab.async false

namespace Sys2Proof.Machine

/-- `SHL(V,n,a)[i] = V[i-a]` for `a <= i < n`, 0 otherwise (R13). -/
theorem testBit_shl (V n a i : Nat) :
    (shl V n a).testBit i = (decide (a ≤ i) && decide (i < n) && V.testBit (i - a)) := by
  unfold shl
  split
  · next h =>
    rw [Nat.zero_testBit]
    by_cases h1 : a ≤ i
    · simp [show ¬ i < n by omega]
    · simp [h1]
  · rw [Nat.testBit_mod_two_pow, Nat.testBit_shiftLeft]
    by_cases h1 : a ≤ i <;> by_cases h2 : i < n <;> simp [h1, h2]

/-- `SHR(V,n,a)[i] = V[i+a]` for `i + a < n`, 0 otherwise, for an n-bit `V` (R13). -/
theorem testBit_shr {V n : Nat} (hV : V < 2 ^ n) (a i : Nat) :
    (shr V n a).testBit i = (decide (i + a < n) && V.testBit (i + a)) := by
  unfold shr
  split
  · next h => simp [show ¬ i + a < n by omega]
  · rw [Nat.testBit_shiftRight, Nat.add_comm a i]
    by_cases h2 : i + a < n
    · simp [h2]
    · simp only [h2, decide_false, Bool.false_and]
      exact Nat.testBit_lt_two_pow (lt_of_lt_of_le hV (Nat.pow_le_pow_right (by omega) (by omega)))

/-- `ROL(V,n,e)[i] = V[(i - e) mod n]`, for an n-bit `V` (R13). -/
theorem testBit_rol {V n e : Nat} (hV : V < 2 ^ n) (he : e < n) (i : Nat) :
    (rol V n e).testBit i = (decide (i < n) && V.testBit ((i + n - e) % n)) := by
  unfold rol
  rw [Nat.testBit_mod_two_pow, Nat.testBit_or, Nat.testBit_shiftLeft, Nat.testBit_shiftRight]
  by_cases hi : i < n
  · by_cases hei : e ≤ i
    · have h1 : (i + n - e) % n = i - e := by
        rw [show i + n - e = (i - e) + n by omega, Nat.add_mod_right, Nat.mod_eq_of_lt (by omega)]
      have h2 : V.testBit (n - e + i) = false :=
        Nat.testBit_lt_two_pow (lt_of_lt_of_le hV (Nat.pow_le_pow_right (by omega) (by omega)))
      simp [hi, hei, h1, h2]
    · have h1 : (i + n - e) % n = i + n - e := Nat.mod_eq_of_lt (by omega)
      simp [hi, hei, h1, show n - e + i = i + n - e by omega]
  · simp [hi]

/-- `ROR(V,n,e)[i] = V[(i + e) mod n]`, for an n-bit `V` (R13). -/
theorem testBit_ror {V n e : Nat} (hV : V < 2 ^ n) (he : e < n) (i : Nat) :
    (ror V n e).testBit i = (decide (i < n) && V.testBit ((i + e) % n)) := by
  unfold ror
  rw [Nat.testBit_mod_two_pow, Nat.testBit_or, Nat.testBit_shiftLeft, Nat.testBit_shiftRight]
  by_cases hi : i < n
  · by_cases hei : i + e < n
    · have h1 : (i + e) % n = i + e := Nat.mod_eq_of_lt hei
      simp [hi, h1, show ¬ n - e ≤ i by omega, Nat.add_comm e i]
    · have h1 : (i + e) % n = i + e - n := by
        rw [Nat.mod_eq_sub_mod (by omega), Nat.mod_eq_of_lt (by omega)]
      have h2 : V.testBit (e + i) = false :=
        Nat.testBit_lt_two_pow (lt_of_lt_of_le hV (Nat.pow_le_pow_right (by omega) (by omega)))
      simp [hi, h1, h2, show n - e ≤ i by omega, show i - (n - e) = i + e - n by omega]
  · simp [hi]

theorem shl_lt (V n a : Nat) : shl V n a < 2 ^ n := by
  unfold shl
  split
  · exact Nat.two_pow_pos n
  · exact Nat.mod_lt _ (Nat.two_pow_pos n)

theorem shr_lt {V n : Nat} (hV : V < 2 ^ n) (a : Nat) : shr V n a < 2 ^ n := by
  unfold shr
  split
  · exact Nat.two_pow_pos n
  · exact lt_of_le_of_lt (Nat.shiftRight_le V a) hV

theorem rol_lt (V n e : Nat) : rol V n e < 2 ^ n := Nat.mod_lt _ (Nat.two_pow_pos n)

theorem ror_lt (V n e : Nat) : ror V n e < 2 ^ n := Nat.mod_lt _ (Nat.two_pow_pos n)

theorem residue_lt (c : Int) {n : Nat} (hn : 0 < n) : residue c n < n := by
  unfold residue
  have h1 := Int.emod_nonneg c (show (n : Int) ≠ 0 by omega)
  have h2 := Int.emod_lt_of_pos c (show (0 : Int) < n by omega)
  omega

/-- `n` divides `c - (c mod n)` (R172, D13). -/
theorem residue_spec (c : Int) {n : Nat} (hn : 0 < n) : (residue c n : Int) = c % (n : Int) := by
  unfold residue
  exact Int.toNat_of_nonneg (Int.emod_nonneg c (show (n : Int) ≠ 0 by omega))

theorem testBit_mask (k i : Nat) : (mask k).testBit i = decide (i < k) := Nat.testBit_two_pow_sub_one k i

/-- `WIN[j] = V[(start + j) mod n]` for `0 <= j < count`, 0 above, for an n-bit `V` (R200). -/
theorem testBit_win {V n : Nat} (hV : V < 2 ^ n) (hn : 0 < n) (start count j : Nat) (hc : count ≤ n) :
    (win V n start count).testBit j = (decide (j < count) && V.testBit ((start + j) % n)) := by
  unfold win
  rw [Nat.testBit_and, testBit_ror hV (Nat.mod_lt _ hn), testBit_mask]
  by_cases hj : j < count
  · have h1 : (j + start % n) % n = (start + j) % n := by rw [Nat.add_mod_mod, Nat.add_comm]
    simp [hj, show j < n by omega, h1]
  · simp [hj]

theorem win_lt (V n start count : Nat) : win V n start count < 2 ^ count := by
  have := Nat.and_le_right (n := ror V n (start % n)) (m := mask count)
  have h2 := Nat.two_pow_pos count
  unfold mask at this
  unfold win mask
  omega

/-- The population count is the number of bits that are 1 (R120). -/
theorem pop_eq_count (N u : Nat) : pop N u = ((List.range N).filter (fun i => u.testBit i)).length := by
  induction N with
  | zero => rfl
  | succ N ih =>
    rw [pop, ih, List.range_succ, List.filter_append, List.length_append]
    cases h : u.testBit N <;> simp [h]

theorem pop_le (N u : Nat) : pop N u ≤ N := by
  induction N with
  | zero => simp [pop]
  | succ N ih => have := Bool.toNat_le (u.testBit N); rw [pop]; omega

/-- A natural below 2^64 is its RESULT. -/
theorem toNat_resultOf {v : Nat} (h : v < 2 ^ 64) : (resultOf v).toNat = v := by
  unfold resultOf; rw [BitVec.toNat_ofNat, Nat.mod_eq_of_lt h]

end Sys2Proof.Machine
end

