-- ==== Sys2Proof/Laws/State.lean ====
section
/-! SUPPORT. One lemma per field per update of `State`, so that no later proof unfolds a record update. -/

set_option Elab.async false

namespace Sys2Proof.Machine

/-! ### `withMem` -/

@[simp] theorem State.withMem_mem (s : State) (m : Memory) : (s.withMem m).mem = m := rfl
@[simp] theorem State.withMem_inFlight (s : State) (m : Memory) : (s.withMem m).inFlight = s.inFlight := rfl
@[simp] theorem State.withMem_response (s : State) (m : Memory) : (s.withMem m).response = s.response := rfl
@[simp] theorem State.withMem_params (s : State) (m : Memory) : (s.withMem m).params = s.params := rfl
@[simp] theorem State.withMem_raced (s : State) (m : Memory) : (s.withMem m).raced = s.raced := rfl
@[simp] theorem State.withMem_moves (s : State) (m : Memory) : (s.withMem m).moves = s.moves := rfl
@[simp] theorem State.withMem_record (s : State) (m : Memory) : (s.withMem m).record = s.record := rfl
@[simp] theorem State.withMem_reads (s : State) (m : Memory) : (s.withMem m).reads = s.reads := rfl
@[simp] theorem State.withMem_draws (s : State) (m : Memory) : (s.withMem m).draws = s.draws := rfl

/-! ### `deliver` -/

@[simp] theorem State.deliver_mem (s : State) (r : Response) : (s.deliver r).mem = s.mem := rfl
@[simp] theorem State.deliver_inFlight (s : State) (r : Response) : (s.deliver r).inFlight = none := rfl
@[simp] theorem State.deliver_response (s : State) (r : Response) : (s.deliver r).response = some r := rfl
@[simp] theorem State.deliver_params (s : State) (r : Response) : (s.deliver r).params = s.params := rfl
@[simp] theorem State.deliver_raced (s : State) (r : Response) : (s.deliver r).raced = false := rfl
@[simp] theorem State.deliver_moves (s : State) (r : Response) : (s.deliver r).moves = s.moves := rfl
@[simp] theorem State.deliver_record (s : State) (r : Response) : (s.deliver r).record = s.record := rfl
@[simp] theorem State.deliver_reads (s : State) (r : Response) : (s.deliver r).reads = s.reads := rfl
@[simp] theorem State.deliver_draws (s : State) (r : Response) : (s.deliver r).draws = s.draws := rfl

/-! ### `consume` -/

@[simp] theorem State.consume_mem (s : State) : s.consume.mem = s.mem := by
  unfold State.consume; split <;> rfl
@[simp] theorem State.consume_inFlight (s : State) : s.consume.inFlight = s.inFlight := by
  unfold State.consume; split <;> rfl
@[simp] theorem State.consume_params (s : State) : s.consume.params = s.params := by
  unfold State.consume; split <;> rfl
@[simp] theorem State.consume_raced (s : State) : s.consume.raced = s.raced := by
  unfold State.consume; split <;> rfl
@[simp] theorem State.consume_moves (s : State) : s.consume.moves = s.moves := by
  unfold State.consume; split <;> rfl
@[simp] theorem State.consume_reads (s : State) : s.consume.reads = s.reads := by
  unfold State.consume; split <;> rfl
@[simp] theorem State.consume_draws (s : State) : s.consume.draws = s.draws := by
  unfold State.consume; split <;> rfl
@[simp] theorem State.consume_response (s : State) : s.consume.response = none := by
  unfold State.consume; split
  · assumption
  · rfl
@[simp] theorem State.consume_record (s : State) : s.consume.record = s.record ++ s.response.toList := by
  unfold State.consume; split <;> simp_all

/-! ### `accept` -/

@[simp] theorem State.accept_mem (s : State) (p : Packet) : (s.accept p).mem = s.mem := s.consume_mem
@[simp] theorem State.accept_inFlight (s : State) (p : Packet) : (s.accept p).inFlight = some p := rfl
@[simp] theorem State.accept_response (s : State) (p : Packet) : (s.accept p).response = none := s.consume_response
@[simp] theorem State.accept_params (s : State) (p : Packet) : (s.accept p).params = s.params := s.consume_params
@[simp] theorem State.accept_raced (s : State) (p : Packet) : (s.accept p).raced = false := rfl
@[simp] theorem State.accept_moves (s : State) (p : Packet) : (s.accept p).moves = s.moves := s.consume_moves
@[simp] theorem State.accept_record (s : State) (p : Packet) : (s.accept p).record = s.record ++ s.response.toList := s.consume_record
@[simp] theorem State.accept_reads (s : State) (p : Packet) : (s.accept p).reads = s.reads := s.consume_reads
@[simp] theorem State.accept_draws (s : State) (p : Packet) : (s.accept p).draws = s.draws := s.consume_draws

/-! ### `inFlightNow` -/

@[simp] theorem State.inFlightNow_mem (s : State) (p : Packet) : (s.inFlightNow p).mem = s.mem := s.accept_mem p
@[simp] theorem State.inFlightNow_inFlight (s : State) (p : Packet) : (s.inFlightNow p).inFlight = some p := rfl
@[simp] theorem State.inFlightNow_response (s : State) (p : Packet) : (s.inFlightNow p).response = none := s.accept_response p
@[simp] theorem State.inFlightNow_params (s : State) (p : Packet) : (s.inFlightNow p).params = s.params := s.accept_params p
@[simp] theorem State.inFlightNow_raced (s : State) (p : Packet) : (s.inFlightNow p).raced = false := rfl
@[simp] theorem State.inFlightNow_moves (s : State) (p : Packet) : (s.inFlightNow p).moves = [] := rfl
@[simp] theorem State.inFlightNow_record (s : State) (p : Packet) : (s.inFlightNow p).record = s.record ++ s.response.toList := s.accept_record p
@[simp] theorem State.inFlightNow_reads (s : State) (p : Packet) : (s.inFlightNow p).reads = s.reads := s.accept_reads p
@[simp] theorem State.inFlightNow_draws (s : State) (p : Packet) : (s.inFlightNow p).draws = s.draws := s.accept_draws p

/-! ### Updates one after another -/

@[simp] theorem State.withMem_withMem (s : State) (m m' : Memory) : (s.withMem m).withMem m' = s.withMem m' := rfl
@[simp] theorem State.withMem_self (s : State) : s.withMem s.mem = s := rfl
@[simp] theorem State.deliver_deliver (s : State) (r r' : Response) : (s.deliver r).deliver r' = s.deliver r' := rfl

end Sys2Proof.Machine
end

