-- ==== Sys2Proof/Laws/Ops.lean ====
section
/-! SUPPORT. What each shared operation can answer, said once: the checks, the ends of a command, the shared meanings,
the host's moves and the unit's turn. -/

set_option Elab.async false

namespace Sys2Proof.Machine

/-! ### Checks -/

@[simp] theorem faultIf_eq_none (c : Prop) [Decidable c] (f : CmdFault) : faultIf c f = none ↔ ¬ c := by
  unfold faultIf; split <;> simp [*]

@[simp] theorem faultIf_eq_some (c : Prop) [Decidable c] (f g : CmdFault) : faultIf c f = some g ↔ c ∧ f = g := by
  unfold faultIf; split <;> simp [*]

@[simp] theorem firstFault_nil : firstFault [] = none := rfl
@[simp] theorem firstFault_some (f : CmdFault) (l : List (Option CmdFault)) : firstFault (some f :: l) = some f := rfl
@[simp] theorem firstFault_none (l : List (Option CmdFault)) : firstFault (none :: l) = firstFault l := rfl

theorem firstFault_cons_eq_none (o : Option CmdFault) (l : List (Option CmdFault)) :
    firstFault (o :: l) = none ↔ o = none ∧ firstFault l = none := by
  cases o <;> simp

/-- `admit_blob` lets exactly the admitted blobs pass (R44). -/
theorem admitBlob_eq_none (p : Params) (buf len : Word) : admitBlob p buf len = none ↔ Admitted p buf len := by
  simp only [admitBlob, firstFault_cons_eq_none, faultIf_eq_none, firstFault_nil, and_true, Admitted]
  omega

/-- `admit_blob` raises BAD_LEN and nothing else (R44). -/
theorem admitBlob_eq_badLen {p : Params} {buf len : Word} (h : ¬ Admitted p buf len) :
    admitBlob p buf len = some .badLen := by
  cases hc : admitBlob p buf len with
  | none => exact absurd ((admitBlob_eq_none p buf len).mp hc) h
  | some f =>
    unfold admitBlob faultIf at hc
    split at hc
    · simpa using hc.symm
    · split at hc
      · simpa using hc.symm
      · split at hc
        · simpa using hc.symm
        · simp at hc

/-- An admitted blob lies below 2^32, so address arithmetic never wraps (R44). -/
theorem Admitted.fits {p : Params} {buf len : Word} (h : Admitted p buf len) : buf.toNat + len.toNat ≤ 2 ^ 32 := h.2.1

theorem bitChecks_eq_none (p : Params) (buf len bit : Word) :
    bitChecks p buf len bit = none ↔ Admitted p buf len ∧ bit.toNat < 8 * len.toNat := by
  simp [bitChecks, firstFault_cons_eq_none, admitBlob_eq_none, bitCheck]

theorem wrapChecks_eq_none (p : Params) (buf len : Word) :
    wrapChecks p buf len = none ↔ Admitted p buf len ∧ len.toNat ≠ 0 := by
  simp [wrapChecks, firstFault_cons_eq_none, admitBlob_eq_none, emptyCheck]

theorem shiftChecks_eq_none (p : Params) (g : Gran) (buf len c : Word) :
    shiftChecks p g buf len c = none ↔
      Admitted p buf len ∧ (g = .g32 → len.toNat % 4 = 0) ∧ 0 ≤ amount c := by
  simp [shiftChecks, firstFault_cons_eq_none, admitBlob_eq_none, granCheck, amountCheck]

theorem rotChecks_eq_none (p : Params) (g : Gran) (buf len : Word) :
    rotChecks p g buf len = none ↔ Admitted p buf len ∧ (g = .g32 → len.toNat % 4 = 0) := by
  simp [rotChecks, firstFault_cons_eq_none, admitBlob_eq_none, granCheck]

theorem windowChecks_eq_none (p : Params) (g : Gran) (buf len count : Word) :
    windowChecks p g buf len count = none ↔
      Admitted p buf len ∧ len.toNat ≠ 0 ∧ (g = .g32 → len.toNat % 4 = 0) ∧
        1 ≤ count.toNat ∧ count.toNat ≤ 32 ∧ count.toNat ≤ 8 * len.toNat := by
  simp only [windowChecks, firstFault_cons_eq_none, admitBlob_eq_none, emptyCheck, granCheck, countCheck, countFits,
    faultIf_eq_none, firstFault_nil, and_true, not_or, not_and, not_lt, ne_eq, not_not]
  tauto

/-! ### Ends of a command -/

theorem complete_eq (s : State) (r : DWord) : complete s r = .next (s.deliver ⟨statusDone, r⟩) := rfl

theorem raise_eq (f : CmdFault) (s : State) : raise f s = .next (s.deliver ⟨faultCode f, 0#64⟩) := rfl

@[simp] theorem guarded_none (s : State) (body : Answer) : guarded none s body = body := rfl

@[simp] theorem guarded_some (f : CmdFault) (s : State) (body : Answer) : guarded (some f) s body = raise f s := rfl

/-- A fault code is not the code of a completed command, and lies in 0x01 to 0x06 (R241). -/
theorem faultCode_ne_done (f : CmdFault) : faultCode f ≠ statusDone := by cases f <;> decide

theorem faultCode_range (f : CmdFault) : 1 ≤ (faultCode f).toNat ∧ (faultCode f).toNat ≤ 6 := by cases f <;> decide

/-- What a guarded body can answer: the first fault of its checks, or what the body answers. -/
theorem guarded_cases (checks : Option CmdFault) (s : State) (body : Answer) :
    (∃ f, checks = some f ∧ guarded checks s body = raise f s) ∨ (checks = none ∧ guarded checks s body = body) := by
  cases checks with
  | none => exact .inr ⟨rfl, rfl⟩
  | some f => exact .inl ⟨f, rfl, rfl⟩

/-! ### The shared meanings -/

/-- `readBit` answers the addressed bit and changes nothing but the channels. -/
theorem readBit_eq (buf : Word) (i : Nat) (s : State) :
    readBit buf i s = .next (s.deliver ⟨statusDone, resultOf (s.mem.bitAt buf.toNat i).toNat⟩) := by
  unfold readBit complete Memory.bitAt resultOf
  congr 3
  generalize s.mem.read (buf.toNat + i / 8) = b
  generalize hr : i % 8 = r
  have hr8 : r < 8 := by omega
  apply BitVec.eq_of_getLsbD_eq
  intro j hj
  rw [BitVec.getLsbD_eq_getElem hr8]
  cases hb : b[r] <;> by_cases h0 : j = 0
  all_goals simp [h0, hb, hj, hr8, show r < 64 by omega]

/-- `updateByte` writes the one byte that holds the bit. -/
theorem updateByte_eq (buf : Word) (i : Nat) (f : Byte → Byte) (s : State) :
    updateByte buf i f s =
      .next ((s.withMem (s.mem.write (buf.toNat + i / 8) (f (s.mem.read (buf.toNat + i / 8))))).deliver
        ⟨statusDone, 0#64⟩) := rfl

/-- Everything a blob shift can answer (R140). -/
theorem shiftBlob_cases (g : Gran) (f : Nat → Nat → Nat → Nat) (buf len c : Word) (s : State) :
    (∃ x, shiftChecks s.params g buf len c = some x ∧ shiftBlob g f buf len c s = raise x s) ∨
    (shiftChecks s.params g buf len c = none ∧
      shiftBlob g f buf len c s = .next ((s.withMem (s.mem.setBlob buf.toNat len.toNat
        (f (s.mem.blobValue buf.toNat len.toNat) (8 * len.toNat) (amount c).toNat))).deliver ⟨statusDone, 0#64⟩)) :=
  guarded_cases _ _ _

/-- Everything a value shift can answer (R151 to R154). -/
theorem shiftValue_cases (N : Nat) (f : Nat → Nat → Nat → Nat) (x : Nat) (c : Word) (s : State) :
    (amount c < 0 ∧ shiftValue N f x c s = raise .badAmount s) ∨
    (0 ≤ amount c ∧
      shiftValue N f x c s = .next (s.deliver ⟨statusDone, resultOf (f x N (amount c).toNat)⟩)) := by
  unfold shiftValue amountCheck faultIf
  split
  · next h => exact .inl ⟨h, rfl⟩
  · next h => exact .inr ⟨not_lt.mp h, rfl⟩

/-- Everything a blob rotate can answer (R170, R172). -/
theorem rotateBlob_cases (g : Gran) (f : Nat → Nat → Nat → Nat) (buf len c : Word) (s : State) :
    (∃ x, rotChecks s.params g buf len = some x ∧ rotateBlob g f buf len c s = raise x s) ∨
    (rotChecks s.params g buf len = none ∧ len.toNat = 0 ∧
      rotateBlob g f buf len c s = .next (s.deliver ⟨statusDone, 0#64⟩)) ∨
    (rotChecks s.params g buf len = none ∧ len.toNat ≠ 0 ∧
      rotateBlob g f buf len c s = .next ((s.withMem (s.mem.setBlob buf.toNat len.toNat
        (f (s.mem.blobValue buf.toNat len.toNat) (8 * len.toNat) (residue (amount c) (8 * len.toNat))))).deliver
          ⟨statusDone, 0#64⟩)) := by
  unfold rotateBlob
  obtain ⟨x, h1, h2⟩ | ⟨h1, h2⟩ := guarded_cases (rotChecks s.params g buf len) s _
  · exact .inl ⟨x, h1, h2⟩
  · rw [h2]
    split
    · next h => exact .inr (.inl ⟨h1, h, rfl⟩)
    · next h => exact .inr (.inr ⟨h1, h, rfl⟩)

/-- Everything a blob window can answer (R200, R201). -/
theorem windowBlob_cases (g : Gran) (buf len start count : Word) (s : State) :
    (∃ x, windowChecks s.params g buf len count = some x ∧ windowBlob g buf len start count s = raise x s) ∨
    (windowChecks s.params g buf len count = none ∧
      windowBlob g buf len start count s = .next (s.deliver ⟨statusDone,
        resultOf (win (s.mem.blobValue buf.toNat len.toNat) (8 * len.toNat) start.toNat count.toNat)⟩)) :=
  guarded_cases _ _ _

/-- The two ends of a command: a fault that changes nothing but the channels (R243), or a completion with some memory
and some RESULT. -/
def Ends (s : State) (a : Answer) : Prop :=
  (∃ f, a = raise f s) ∨ ∃ m r, a = .next ((s.withMem m).deliver ⟨statusDone, r⟩)

theorem ends_guarded {s : State} {body : Answer} (checks : Option CmdFault) (h : Ends s body) :
    Ends s (guarded checks s body) := by
  cases checks with
  | none => exact h
  | some f => exact .inl ⟨f, rfl⟩

theorem ends_complete (s : State) (r : DWord) : Ends s (complete s r) := .inr ⟨s.mem, r, rfl⟩

theorem ends_withMem (s : State) (m : Memory) (r : DWord) : Ends s (complete (s.withMem m) r) := .inr ⟨m, r, rfl⟩

theorem ends_rotateBlob (g : Gran) (f : Nat → Nat → Nat → Nat) (buf len c : Word) (s : State) :
    Ends s (rotateBlob g f buf len c s) := by
  apply ends_guarded
  split
  · exact ends_complete s _
  · exact ends_withMem s _ _

/-- Everything a command can answer: it always ends with a response, one of the two ends. -/
theorem exec_ends (i : Instr) (s : State) : Ends s (exec i s) := by
  cases i
  case getbit | getbitw => exact ends_guarded _ (ends_complete s _)
  case setbit | setbitv | clearbit | flipbit => exact ends_guarded _ (ends_withMem s _ _)
  case popcountW32 | popcountW64 | popcountW128 | parityW32 | parityW64 => exact ends_complete s _
  case lshift | lshiftG1 | lshiftG8 | lshiftG32 | rshift | rshiftG1 | rshiftG8 | rshiftG32 =>
    exact ends_guarded _ (ends_withMem s _ _)
  case lshiftW32 | rshiftW32 | lshiftW64 | rshiftW64 => exact ends_guarded _ (ends_complete s _)
  case lrot | lrotG1 | lrotG8 | lrotG32 | rrot | rrotG1 | rrotG8 | rrotG32 => exact ends_rotateBlob _ _ _ _ _ s
  case lrotW32 | rrotW32 | lrotW64 | rrotW64 => exact ends_complete s _
  case window | windowG8 | windowG32 | windowW32 | windowW64 => exact ends_guarded _ (ends_complete s _)

/-! ### The blob in flight -/

/-- A guarded meaning completes exactly when its checks find nothing. -/
theorem completes_guarded {i : Instr} {s : State} {checks : Option CmdFault} {m : Memory} {r : DWord}
    (h : exec i s = guarded checks s (complete (s.withMem m) r)) : completes i s = checks.isNone := by
  unfold completes
  rw [h]
  cases checks with
  | none => simp [complete_eq, State.deliver]
  | some f => simp [raise_eq, State.deliver, faultCode_ne_done]

/-- The checks of a command (R242), from its operands and the parameters. -/
def checksOf (p : Params) : Instr → Option CmdFault
  | .getbit buf len bit => bitChecks p buf len bit
  | .getbitw buf len _ => wrapChecks p buf len
  | .setbit buf len bit => bitChecks p buf len bit
  | .setbitv buf len bit _ => bitChecks p buf len bit
  | .clearbit buf len bit => bitChecks p buf len bit
  | .flipbit buf len bit => bitChecks p buf len bit
  | .popcountW32 _ => none
  | .popcountW64 _ => none
  | .popcountW128 _ _ => none
  | .parityW32 _ => none
  | .parityW64 _ => none
  | .lshift buf len c => shiftChecks p .auto buf len c
  | .lshiftG1 buf len c => shiftChecks p .g1 buf len c
  | .lshiftG8 buf len c => shiftChecks p .g8 buf len c
  | .lshiftG32 buf len c => shiftChecks p .g32 buf len c
  | .rshift buf len c => shiftChecks p .auto buf len c
  | .rshiftG1 buf len c => shiftChecks p .g1 buf len c
  | .rshiftG8 buf len c => shiftChecks p .g8 buf len c
  | .rshiftG32 buf len c => shiftChecks p .g32 buf len c
  | .lshiftW32 _ c => amountCheck c
  | .rshiftW32 _ c => amountCheck c
  | .lshiftW64 _ c => amountCheck c
  | .rshiftW64 _ c => amountCheck c
  | .lrot buf len _ => rotChecks p .auto buf len
  | .lrotG1 buf len _ => rotChecks p .g1 buf len
  | .lrotG8 buf len _ => rotChecks p .g8 buf len
  | .lrotG32 buf len _ => rotChecks p .g32 buf len
  | .rrot buf len _ => rotChecks p .auto buf len
  | .rrotG1 buf len _ => rotChecks p .g1 buf len
  | .rrotG8 buf len _ => rotChecks p .g8 buf len
  | .rrotG32 buf len _ => rotChecks p .g32 buf len
  | .lrotW32 _ _ => none
  | .rrotW32 _ _ => none
  | .lrotW64 _ _ => none
  | .rrotW64 _ _ => none
  | .window buf len _ count => windowChecks p .auto buf len count
  | .windowG8 buf len _ count => windowChecks p .g8 buf len count
  | .windowG32 buf len _ count => windowChecks p .g32 buf len count
  | .windowW32 _ _ count => countCheck count
  | .windowW64 _ _ count => countCheck count

/-- A blob rotate is guarded by its checks alone; at `len = 0` its memory is the one it found (R172). -/
theorem rotateBlob_guarded (g : Gran) (f : Nat → Nat → Nat → Nat) (buf len c : Word) (s : State) :
    ∃ m, rotateBlob g f buf len c s =
      guarded (rotChecks s.params g buf len) s (complete (s.withMem m) 0#64) := by
  unfold rotateBlob
  split
  · exact ⟨s.mem, rfl⟩
  · exact ⟨_, rfl⟩

/-- Every meaning is a completion behind the checks of its command. -/
theorem exec_guarded (i : Instr) (s : State) :
    ∃ m r, exec i s = guarded (checksOf s.params i) s (complete (s.withMem m) r) := by
  cases i
  case lrot | lrotG1 | lrotG8 | lrotG32 | rrot | rrotG1 | rrotG8 | rrotG32 =>
    exact (rotateBlob_guarded _ _ _ _ _ s).imp fun _ h => ⟨_, h⟩
  case setbit | setbitv | clearbit | flipbit => exact ⟨_, _, rfl⟩
  case lshift | lshiftG1 | lshiftG8 | lshiftG32 | rshift | rshiftG1 | rshiftG8 | rshiftG32 => exact ⟨_, _, rfl⟩
  all_goals exact ⟨s.mem, _, rfl⟩

/-- Whether a command completes, its checks alone decide. -/
theorem completes_eq (i : Instr) (s : State) : completes i s = (checksOf s.params i).isNone := by
  obtain ⟨m, r, h⟩ := exec_guarded i s
  exact completes_guarded h

/-- A command that completes on a blob has it admitted (R44). -/
theorem checksOf_fits {p : Params} {i : Instr} {buf len : Nat} (h : checksOf p i = none)
    (hb : blobOf i = some (buf, len)) : buf + len ≤ 2 ^ 32 := by
  cases i <;> simp only [blobOf, Option.some.injEq, Prod.mk.injEq, reduceCtorEq] at hb <;> obtain ⟨rfl, rfl⟩ := hb
  case getbitw => exact ((wrapChecks_eq_none _ _ _).1 h).1.fits
  case getbit | setbit | setbitv | clearbit | flipbit => exact ((bitChecks_eq_none _ _ _ _).1 h).1.fits
  case window | windowG8 | windowG32 => exact ((windowChecks_eq_none _ _ _ _ _).1 h).1.fits
  case lshift | lshiftG1 | lshiftG8 | lshiftG32 | rshift | rshiftG1 | rshiftG8 | rshiftG32 =>
    exact ((shiftChecks_eq_none _ _ _ _ _).1 h).1.fits
  case lrot | lrotG1 | lrotG8 | lrotG32 | rrot | rrotG1 | rrotG8 | rrotG32 =>
    exact ((rotChecks_eq_none _ _ _ _).1 h).1.fits

/-- A command whose response has STATUS 0 completes. -/
theorem completes_of_done {i : Instr} {s t : State} {r : Response} (h : exec i s = .next t)
    (hr : t.response = some r) (h0 : r.status = statusDone) : completes i s = true := by
  unfold completes
  simp [h, hr, h0]

/-- The blob in flight depends on the packet in flight and the parameters only. -/
theorem State.claimed_congr {s s' : State} (hp : s'.params = s.params) (hf : s'.inFlight = s.inFlight) :
    s'.claimed = s.claimed := by
  simp only [State.claimed, State.current, completes_eq, hp, hf]

theorem State.claims_congr {s s' : State} (hp : s'.params = s.params) (hf : s'.inFlight = s.inFlight) (a : Nat) :
    s'.claims a = s.claims a := by
  simp only [State.claims, State.claimed_congr hp hf]

@[simp] theorem State.claims_moves (s : State) (rest : List HostMove) (a : Nat) :
    State.claims { s with moves := rest } a = s.claims a :=
  State.claims_congr (s := s) (s' := { s with moves := rest }) rfl rfl a

@[simp] theorem State.claimed_moves (s : State) (rest : List HostMove) :
    State.claimed { s with moves := rest } = s.claimed :=
  State.claimed_congr (s := s) (s' := { s with moves := rest }) rfl rfl

/-- What it is to be the blob in flight: a legal packet whose command completes and names that blob. -/
theorem State.claimed_eq_some {s : State} {blob : Nat × Nat} :
    s.claimed = some blob ↔
      ∃ p i, s.inFlight = some p ∧ decode p = .ok i ∧ completes i s = true ∧ blobOf i = some blob := by
  unfold State.claimed State.current
  cases hf : s.inFlight with
  | none => simp
  | some p => cases hd : decode p <;> simp [hd]

/-- The blob in flight lies in blob memory. -/
theorem State.claimed_fits {s : State} {blob : Nat × Nat} (h : s.claimed = some blob) : blob.1 + blob.2 ≤ 2 ^ 32 := by
  obtain ⟨p, i, _, _, hc, hb⟩ := State.claimed_eq_some.1 h
  rw [completes_eq, Option.isNone_iff_eq_none] at hc
  exact checksOf_fits hc hb

/-- With no packet or an illegal one in flight, no byte is claimed. -/
theorem State.claimed_of_illegal {s : State} {p : Packet} {e : DecodeError} (hf : s.inFlight = some p)
    (hd : decode p = .error e) : s.claimed = none := by
  simp [State.claimed, State.current, hf, hd]

/-! ### The host's moves and the unit's turn -/

/-- Everything a host store can answer. -/
theorem hostStore_cases (a : Nat) (b : Byte) (s : State) :
    (a < 2 ^ 32 ∧ hostStore a b s = .next { s with mem := s.mem.write a b, raced := s.raced || s.claims a }) ∨
    (2 ^ 32 ≤ a ∧ hostStore a b s = .fault (.noSuchAddress a)) := by
  unfold hostStore
  split
  · next h => exact .inl ⟨h, rfl⟩
  · next h => exact .inr ⟨not_lt.mp h, rfl⟩

/-- Everything a host load can answer. -/
theorem hostLoad_cases (a : Nat) (s : State) :
    (a < 2 ^ 32 ∧ s.claims a = true ∧
      hostLoad a s = .next { s with reads := s.reads ++ [Config.freeByte s.draws], draws := s.draws + 1 }) ∨
    (a < 2 ^ 32 ∧ s.claims a = false ∧ hostLoad a s = .next { s with reads := s.reads ++ [s.mem.read a] }) ∨
    (2 ^ 32 ≤ a ∧ hostLoad a s = .fault (.noSuchAddress a)) := by
  unfold hostLoad
  split
  · next h =>
    split
    · next hc => exact .inl ⟨h, hc, rfl⟩
    · next hc => exact .inr (.inl ⟨h, by simpa using hc, rfl⟩)
  · next h => exact .inr (.inr ⟨not_lt.mp h, rfl⟩)

/-- Everything reset can do: the pending response is recorded, and nothing happens to memory, or the bytes of one blob
become draws. -/
theorem resetUnit_cases (s : State) :
    (resetUnit s = { s.consume with inFlight := none, raced := false }) ∨
    (∃ blob, s.claimed = some blob ∧ s.resetSpoils = true ∧
      resetUnit s = { s.consume with
        inFlight := none, raced := false
        mem := s.mem.scramble blob s.draws, draws := s.draws + blob.2 }) := by
  unfold resetUnit
  cases hc : s.claimed with
  | none => exact .inl rfl
  | some blob =>
    cases hs : s.resetSpoils with
    | false => exact .inl (by simp)
    | true => exact .inr ⟨blob, rfl, rfl, by simp⟩

/-- The channels, the record and the model's other fields after a reset (R29, R270; log entry 4). -/
@[simp] theorem resetUnit_inFlight (s : State) : (resetUnit s).inFlight = none := by
  obtain h | ⟨_, _, _, h⟩ := resetUnit_cases s <;> rw [h]
@[simp] theorem resetUnit_response (s : State) : (resetUnit s).response = none := by
  obtain h | ⟨_, _, _, h⟩ := resetUnit_cases s <;> simp [h]
@[simp] theorem resetUnit_raced (s : State) : (resetUnit s).raced = false := by
  obtain h | ⟨_, _, _, h⟩ := resetUnit_cases s <;> rw [h]
@[simp] theorem resetUnit_record (s : State) : (resetUnit s).record = s.record ++ s.response.toList := by
  obtain h | ⟨_, _, _, h⟩ := resetUnit_cases s <;> simp [h]
@[simp] theorem resetUnit_params (s : State) : (resetUnit s).params = s.params := by
  obtain h | ⟨_, _, _, h⟩ := resetUnit_cases s <;> simp [h]
@[simp] theorem resetUnit_moves (s : State) : (resetUnit s).moves = s.moves := by
  obtain h | ⟨_, _, _, h⟩ := resetUnit_cases s <;> simp [h]
@[simp] theorem resetUnit_reads (s : State) : (resetUnit s).reads = s.reads := by
  obtain h | ⟨_, _, _, h⟩ := resetUnit_cases s <;> simp [h]

/-- A command whose blob was not raced ends as it would alone. -/
theorem settleRace_not_raced {s : State} (h : s.raced = false) (a : Answer) : settleRace s a = a := by
  unfold settleRace; simp [h]

/-- Everything the end of a command can be: the command's own, or the race's. -/
theorem settleRace_cases (s : State) (a : Answer) :
    settleRace s a = a ∨
    (∃ blob t, s.raced = true ∧ s.claimed = some blob ∧ a = .next t ∧ settleRace s a = .next (raceOutcome blob t)) := by
  unfold settleRace
  cases hr : s.raced with
  | false => exact .inl (by simp)
  | true =>
    cases hc : s.claimed with
    | none => exact .inl (by simp)
    | some blob =>
      cases a with
      | next t => exact .inr ⟨blob, t, rfl, rfl, rfl, by simp⟩
      | fault r => exact .inl (by simp)
      | refused r => exact .inl (by simp)

/-- Everything the unit's turn can answer: it waits, it runs a legal packet, or it answers ILLEGAL_CMD. -/
theorem unitTurn_cases (s : State) :
    (s.inFlight = none ∧ unitTurn s = .next s) ∨
    (∃ p i, s.inFlight = some p ∧ decode p = .ok i ∧ unitTurn s = settleRace s (exec i s)) ∨
    (∃ p e, s.inFlight = some p ∧ decode p = .error e ∧ unitTurn s = raise .illegalCmd s) := by
  unfold unitTurn
  cases hf : s.inFlight with
  | none => exact .inl ⟨rfl, rfl⟩
  | some p =>
    cases hd : decode p with
    | ok i => exact .inr (.inl ⟨p, i, rfl, hd, by simp [runPacket, hd]⟩)
    | error e => exact .inr (.inr ⟨p, e, rfl, hd, by simp [runPacket, hd]⟩)

/-- Everything a step can be: the unit's turn, with the host waiting if it has a move; or the host's move. -/
theorem step_cases (s : State) :
    (step s = unitTurn s ∧
      (s.moves = [] ∨ (s.inFlight.isSome = true ∧ ((∃ p r, s.moves = .issue p :: r) ∨ ∃ r, s.moves = .await :: r)))) ∨
    (∃ p r, s.moves = .issue p :: r ∧ s.inFlight = none ∧ step s = .next (State.accept { s with moves := r } p)) ∨
    (∃ r, s.moves = .await :: r ∧ s.inFlight = none ∧ step s = .next (State.consume { s with moves := r })) ∨
    (∃ a b r, s.moves = .store a b :: r ∧ step s = hostStore a b { s with moves := r }) ∨
    (∃ a r, s.moves = .load a :: r ∧ step s = hostLoad a { s with moves := r }) ∨
    (∃ r, s.moves = .reset :: r ∧ step s = .next (resetUnit { s with moves := r })) := by
  unfold step
  cases hm : s.moves with
  | nil => exact .inl ⟨rfl, .inl rfl⟩
  | cons m r =>
    cases m with
    | issue p =>
      cases hf : s.inFlight with
      | none => exact .inr (.inl ⟨p, r, rfl, rfl, by simp [hostMove, hf]⟩)
      | some q => exact .inl ⟨by simp [hostMove, hf], .inr ⟨rfl, .inl ⟨p, r, rfl⟩⟩⟩
    | await =>
      cases hf : s.inFlight with
      | none => exact .inr (.inr (.inl ⟨r, rfl, rfl, by simp [hostMove, hf]⟩))
      | some q => exact .inl ⟨by simp [hostMove, hf], .inr ⟨rfl, .inr ⟨r, rfl⟩⟩⟩
    | store a b => exact .inr (.inr (.inr (.inl ⟨a, b, r, rfl, rfl⟩)))
    | load a => exact .inr (.inr (.inr (.inr (.inl ⟨a, r, rfl, rfl⟩))))
    | reset => exact .inr (.inr (.inr (.inr (.inr ⟨r, rfl, rfl⟩))))

/-- The memory right after reset has the canonical form. -/
theorem reset_mem_wf : State.reset.mem.wf = true := rfl

end Sys2Proof.Machine
end

