-- ==== Sys2Proof/Laws/PerInstr.lean ====
section
/-! SUPPORT. Statements about every instruction as syntax, one lemma per constructor. -/

set_option Elab.async false

namespace Sys2Proof.Laws.EncodesLegal

/-- The encoder never makes a packet that R78 calls illegal. -/
def Statement (i : Instr) : Prop := (encode i).wellFormed = true

theorem getbit (buf : Word) (len : Word) (bit : Word) : Statement (.getbit buf len bit) := by
  simp [Statement, encode, packBI, Packet.wellFormed, Packet.reservedZero,
    Packet.opcodeAssigned, Packet.granAllowed, Packet.notWindowG1, Packet.unusedZero, mustBeZero, Packet.opc,
    Packet.gran, assignedOpcodes]
theorem getbitw (buf : Word) (len : Word) (bit : Word) : Statement (.getbitw buf len bit) := by
  simp [Statement, encode, packBI, Packet.wellFormed, Packet.reservedZero,
    Packet.opcodeAssigned, Packet.granAllowed, Packet.notWindowG1, Packet.unusedZero, mustBeZero, Packet.opc,
    Packet.gran, assignedOpcodes]
theorem setbit (buf : Word) (len : Word) (bit : Word) : Statement (.setbit buf len bit) := by
  simp [Statement, encode, packBI, Packet.wellFormed, Packet.reservedZero,
    Packet.opcodeAssigned, Packet.granAllowed, Packet.notWindowG1, Packet.unusedZero, mustBeZero, Packet.opc,
    Packet.gran, assignedOpcodes]
theorem setbitv (buf : Word) (len : Word) (bit : Word) (val : Word) : Statement (.setbitv buf len bit val) := by
  simp [Statement, encode, Packet.wellFormed, Packet.reservedZero,
    Packet.opcodeAssigned, Packet.granAllowed, Packet.notWindowG1, Packet.unusedZero, mustBeZero, Packet.opc,
    Packet.gran, assignedOpcodes]
theorem clearbit (buf : Word) (len : Word) (bit : Word) : Statement (.clearbit buf len bit) := by
  simp [Statement, encode, packBI, Packet.wellFormed, Packet.reservedZero,
    Packet.opcodeAssigned, Packet.granAllowed, Packet.notWindowG1, Packet.unusedZero, mustBeZero, Packet.opc,
    Packet.gran, assignedOpcodes]
theorem flipbit (buf : Word) (len : Word) (bit : Word) : Statement (.flipbit buf len bit) := by
  simp [Statement, encode, packBI, Packet.wellFormed, Packet.reservedZero,
    Packet.opcodeAssigned, Packet.granAllowed, Packet.notWindowG1, Packet.unusedZero, mustBeZero, Packet.opc,
    Packet.gran, assignedOpcodes]
theorem popcountW32 (x : Word) : Statement (.popcountW32 x) := by
  simp [Statement, encode, packV32, Packet.wellFormed, Packet.reservedZero,
    Packet.opcodeAssigned, Packet.granAllowed, Packet.notWindowG1, Packet.unusedZero, mustBeZero, Packet.opc,
    Packet.gran, assignedOpcodes]
theorem popcountW64 (x : DWord) : Statement (.popcountW64 x) := by
  simp [Statement, encode, packV64, Packet.wellFormed, Packet.reservedZero,
    Packet.opcodeAssigned, Packet.granAllowed, Packet.notWindowG1, Packet.unusedZero, mustBeZero, Packet.opc,
    Packet.gran, assignedOpcodes]
theorem popcountW128 (w0 : DWord) (w1 : DWord) : Statement (.popcountW128 w0 w1) := by
  simp [Statement, encode, Packet.wellFormed, Packet.reservedZero,
    Packet.opcodeAssigned, Packet.granAllowed, Packet.notWindowG1, Packet.unusedZero, mustBeZero, Packet.opc,
    Packet.gran, assignedOpcodes]
theorem parityW32 (x : Word) : Statement (.parityW32 x) := by
  simp [Statement, encode, packV32, Packet.wellFormed, Packet.reservedZero,
    Packet.opcodeAssigned, Packet.granAllowed, Packet.notWindowG1, Packet.unusedZero, mustBeZero, Packet.opc,
    Packet.gran, assignedOpcodes]
theorem parityW64 (x : DWord) : Statement (.parityW64 x) := by
  simp [Statement, encode, packV64, Packet.wellFormed, Packet.reservedZero,
    Packet.opcodeAssigned, Packet.granAllowed, Packet.notWindowG1, Packet.unusedZero, mustBeZero, Packet.opc,
    Packet.gran, assignedOpcodes]
theorem lshift (buf : Word) (len : Word) (c : Word) : Statement (.lshift buf len c) := by
  simp [Statement, encode, packBC, Packet.wellFormed, Packet.reservedZero,
    Packet.opcodeAssigned, Packet.granAllowed, Packet.notWindowG1, Packet.unusedZero, mustBeZero, Packet.opc,
    Packet.gran, assignedOpcodes]
theorem lshiftG1 (buf : Word) (len : Word) (c : Word) : Statement (.lshiftG1 buf len c) := by
  simp [Statement, encode, packBC, Packet.wellFormed, Packet.reservedZero,
    Packet.opcodeAssigned, Packet.granAllowed, Packet.notWindowG1, Packet.unusedZero, mustBeZero, Packet.opc,
    Packet.gran, assignedOpcodes]
theorem lshiftG8 (buf : Word) (len : Word) (c : Word) : Statement (.lshiftG8 buf len c) := by
  simp [Statement, encode, packBC, Packet.wellFormed, Packet.reservedZero,
    Packet.opcodeAssigned, Packet.granAllowed, Packet.notWindowG1, Packet.unusedZero, mustBeZero, Packet.opc,
    Packet.gran, assignedOpcodes]
theorem lshiftG32 (buf : Word) (len : Word) (c : Word) : Statement (.lshiftG32 buf len c) := by
  simp [Statement, encode, packBC, Packet.wellFormed, Packet.reservedZero,
    Packet.opcodeAssigned, Packet.granAllowed, Packet.notWindowG1, Packet.unusedZero, mustBeZero, Packet.opc,
    Packet.gran, assignedOpcodes]
theorem rshift (buf : Word) (len : Word) (c : Word) : Statement (.rshift buf len c) := by
  simp [Statement, encode, packBC, Packet.wellFormed, Packet.reservedZero,
    Packet.opcodeAssigned, Packet.granAllowed, Packet.notWindowG1, Packet.unusedZero, mustBeZero, Packet.opc,
    Packet.gran, assignedOpcodes]
theorem rshiftG1 (buf : Word) (len : Word) (c : Word) : Statement (.rshiftG1 buf len c) := by
  simp [Statement, encode, packBC, Packet.wellFormed, Packet.reservedZero,
    Packet.opcodeAssigned, Packet.granAllowed, Packet.notWindowG1, Packet.unusedZero, mustBeZero, Packet.opc,
    Packet.gran, assignedOpcodes]
theorem rshiftG8 (buf : Word) (len : Word) (c : Word) : Statement (.rshiftG8 buf len c) := by
  simp [Statement, encode, packBC, Packet.wellFormed, Packet.reservedZero,
    Packet.opcodeAssigned, Packet.granAllowed, Packet.notWindowG1, Packet.unusedZero, mustBeZero, Packet.opc,
    Packet.gran, assignedOpcodes]
theorem rshiftG32 (buf : Word) (len : Word) (c : Word) : Statement (.rshiftG32 buf len c) := by
  simp [Statement, encode, packBC, Packet.wellFormed, Packet.reservedZero,
    Packet.opcodeAssigned, Packet.granAllowed, Packet.notWindowG1, Packet.unusedZero, mustBeZero, Packet.opc,
    Packet.gran, assignedOpcodes]
theorem lshiftW32 (x : Word) (c : Word) : Statement (.lshiftW32 x c) := by
  simp [Statement, encode, packVC32, Packet.wellFormed, Packet.reservedZero,
    Packet.opcodeAssigned, Packet.granAllowed, Packet.notWindowG1, Packet.unusedZero, mustBeZero, Packet.opc,
    Packet.gran, assignedOpcodes]
theorem rshiftW32 (x : Word) (c : Word) : Statement (.rshiftW32 x c) := by
  simp [Statement, encode, packVC32, Packet.wellFormed, Packet.reservedZero,
    Packet.opcodeAssigned, Packet.granAllowed, Packet.notWindowG1, Packet.unusedZero, mustBeZero, Packet.opc,
    Packet.gran, assignedOpcodes]
theorem lshiftW64 (x : DWord) (c : Word) : Statement (.lshiftW64 x c) := by
  simp [Statement, encode, packVC64, Packet.wellFormed, Packet.reservedZero,
    Packet.opcodeAssigned, Packet.granAllowed, Packet.notWindowG1, Packet.unusedZero, mustBeZero, Packet.opc,
    Packet.gran, assignedOpcodes]
theorem rshiftW64 (x : DWord) (c : Word) : Statement (.rshiftW64 x c) := by
  simp [Statement, encode, packVC64, Packet.wellFormed, Packet.reservedZero,
    Packet.opcodeAssigned, Packet.granAllowed, Packet.notWindowG1, Packet.unusedZero, mustBeZero, Packet.opc,
    Packet.gran, assignedOpcodes]
theorem lrot (buf : Word) (len : Word) (c : Word) : Statement (.lrot buf len c) := by
  simp [Statement, encode, packBC, Packet.wellFormed, Packet.reservedZero,
    Packet.opcodeAssigned, Packet.granAllowed, Packet.notWindowG1, Packet.unusedZero, mustBeZero, Packet.opc,
    Packet.gran, assignedOpcodes]
theorem lrotG1 (buf : Word) (len : Word) (c : Word) : Statement (.lrotG1 buf len c) := by
  simp [Statement, encode, packBC, Packet.wellFormed, Packet.reservedZero,
    Packet.opcodeAssigned, Packet.granAllowed, Packet.notWindowG1, Packet.unusedZero, mustBeZero, Packet.opc,
    Packet.gran, assignedOpcodes]
theorem lrotG8 (buf : Word) (len : Word) (c : Word) : Statement (.lrotG8 buf len c) := by
  simp [Statement, encode, packBC, Packet.wellFormed, Packet.reservedZero,
    Packet.opcodeAssigned, Packet.granAllowed, Packet.notWindowG1, Packet.unusedZero, mustBeZero, Packet.opc,
    Packet.gran, assignedOpcodes]
theorem lrotG32 (buf : Word) (len : Word) (c : Word) : Statement (.lrotG32 buf len c) := by
  simp [Statement, encode, packBC, Packet.wellFormed, Packet.reservedZero,
    Packet.opcodeAssigned, Packet.granAllowed, Packet.notWindowG1, Packet.unusedZero, mustBeZero, Packet.opc,
    Packet.gran, assignedOpcodes]
theorem rrot (buf : Word) (len : Word) (c : Word) : Statement (.rrot buf len c) := by
  simp [Statement, encode, packBC, Packet.wellFormed, Packet.reservedZero,
    Packet.opcodeAssigned, Packet.granAllowed, Packet.notWindowG1, Packet.unusedZero, mustBeZero, Packet.opc,
    Packet.gran, assignedOpcodes]
theorem rrotG1 (buf : Word) (len : Word) (c : Word) : Statement (.rrotG1 buf len c) := by
  simp [Statement, encode, packBC, Packet.wellFormed, Packet.reservedZero,
    Packet.opcodeAssigned, Packet.granAllowed, Packet.notWindowG1, Packet.unusedZero, mustBeZero, Packet.opc,
    Packet.gran, assignedOpcodes]
theorem rrotG8 (buf : Word) (len : Word) (c : Word) : Statement (.rrotG8 buf len c) := by
  simp [Statement, encode, packBC, Packet.wellFormed, Packet.reservedZero,
    Packet.opcodeAssigned, Packet.granAllowed, Packet.notWindowG1, Packet.unusedZero, mustBeZero, Packet.opc,
    Packet.gran, assignedOpcodes]
theorem rrotG32 (buf : Word) (len : Word) (c : Word) : Statement (.rrotG32 buf len c) := by
  simp [Statement, encode, packBC, Packet.wellFormed, Packet.reservedZero,
    Packet.opcodeAssigned, Packet.granAllowed, Packet.notWindowG1, Packet.unusedZero, mustBeZero, Packet.opc,
    Packet.gran, assignedOpcodes]
theorem lrotW32 (x : Word) (c : Word) : Statement (.lrotW32 x c) := by
  simp [Statement, encode, packVC32, Packet.wellFormed, Packet.reservedZero,
    Packet.opcodeAssigned, Packet.granAllowed, Packet.notWindowG1, Packet.unusedZero, mustBeZero, Packet.opc,
    Packet.gran, assignedOpcodes]
theorem rrotW32 (x : Word) (c : Word) : Statement (.rrotW32 x c) := by
  simp [Statement, encode, packVC32, Packet.wellFormed, Packet.reservedZero,
    Packet.opcodeAssigned, Packet.granAllowed, Packet.notWindowG1, Packet.unusedZero, mustBeZero, Packet.opc,
    Packet.gran, assignedOpcodes]
theorem lrotW64 (x : DWord) (c : Word) : Statement (.lrotW64 x c) := by
  simp [Statement, encode, packVC64, Packet.wellFormed, Packet.reservedZero,
    Packet.opcodeAssigned, Packet.granAllowed, Packet.notWindowG1, Packet.unusedZero, mustBeZero, Packet.opc,
    Packet.gran, assignedOpcodes]
theorem rrotW64 (x : DWord) (c : Word) : Statement (.rrotW64 x c) := by
  simp [Statement, encode, packVC64, Packet.wellFormed, Packet.reservedZero,
    Packet.opcodeAssigned, Packet.granAllowed, Packet.notWindowG1, Packet.unusedZero, mustBeZero, Packet.opc,
    Packet.gran, assignedOpcodes]
theorem window (buf : Word) (len : Word) (start : Word) (count : Word) : Statement (.window buf len start count) := by
  simp [Statement, encode, packBW, Packet.wellFormed, Packet.reservedZero,
    Packet.opcodeAssigned, Packet.granAllowed, Packet.notWindowG1, Packet.unusedZero, mustBeZero, Packet.opc,
    Packet.gran, assignedOpcodes]
theorem windowG8 (buf : Word) (len : Word) (start : Word) (count : Word) : Statement (.windowG8 buf len start count) := by
  simp [Statement, encode, packBW, Packet.wellFormed, Packet.reservedZero,
    Packet.opcodeAssigned, Packet.granAllowed, Packet.notWindowG1, Packet.unusedZero, mustBeZero, Packet.opc,
    Packet.gran, assignedOpcodes]
theorem windowG32 (buf : Word) (len : Word) (start : Word) (count : Word) : Statement (.windowG32 buf len start count) := by
  simp [Statement, encode, packBW, Packet.wellFormed, Packet.reservedZero,
    Packet.opcodeAssigned, Packet.granAllowed, Packet.notWindowG1, Packet.unusedZero, mustBeZero, Packet.opc,
    Packet.gran, assignedOpcodes]
theorem windowW32 (x : Word) (start : Word) (count : Word) : Statement (.windowW32 x start count) := by
  simp [Statement, encode, Packet.wellFormed, Packet.reservedZero,
    Packet.opcodeAssigned, Packet.granAllowed, Packet.notWindowG1, Packet.unusedZero, mustBeZero, Packet.opc,
    Packet.gran, assignedOpcodes]
theorem windowW64 (x : DWord) (start : Word) (count : Word) : Statement (.windowW64 x start count) := by
  simp [Statement, encode, Packet.wellFormed, Packet.reservedZero,
    Packet.opcodeAssigned, Packet.granAllowed, Packet.notWindowG1, Packet.unusedZero, mustBeZero, Packet.opc,
    Packet.gran, assignedOpcodes]

end Sys2Proof.Laws.EncodesLegal
end

