-- ==== Sys2Proof/Tests/Slice0.lean ====
section
/-! SUPPORT. The model's own tests: legality and decoding on words written out from 30_encoding.md, single commands on
the vectors of 95_test_vectors.md, the step, and a witness for the hypotheses of each statement that has some. -/

set_option Elab.async false

namespace Sys2Proof.Tests

open Sys2Proof Sys2Proof.Machine

/-! ### Helpers -/

/-- `W[0]` by its fields (R71): the 22 reserved bits 0, GRAN, OPC. -/
def control (gran : BitVec 2) (opc : BitVec 8) : Word := 0#22 ++ gran ++ opc

/-- The cells of the bytes `bs` from `a` on over a memory of zeros. -/
def cellsFrom : Nat → List Nat → List Host.Cell
  | _, [] => []
  | a, b :: bs => if b = 0 then cellsFrom (a + 1) bs else (a, BitVec.ofNat 8 b) :: cellsFrom (a + 1) bs

/-- An idle unit whose host has cleared memory and then stored `bs` from 0x1000 on. -/
def withBlob (bs : List Nat) : State :=
  { State.reset with mem := { background := .filled 0#8, cells := cellsFrom 0x1000 bs } }

/-- The bytes of the blob at 0x1000. -/
def bytesAt (m : Memory) (n : Nat) : List Nat := (List.range n).map (fun k => (m.read (0x1000 + k)).toNat)

/-- STATUS, RESULT and the blob at 0x1000 afterwards, of one command on the blob `bs` at 0x1000. -/
def outcome (i : Instr) (bs : List Nat) : Option (Nat × Nat × List Nat) :=
  match exec i (withBlob bs) with
  | .next t => t.response.map (fun r => (r.status.toNat, r.result.toNat, bytesAt t.mem bs.length))
  | .fault _ => none
  | .refused _ => none

/-- The state a step answers, or the state before it. -/
def after (s : State) : State :=
  match step s with
  | .next t => t
  | .fault _ => s
  | .refused _ => s

/-- The response pending after one step of the unit on a packet, blob `80 00 01` at 0x1000. -/
def responseTo (p : Packet) : Option Response := (after ((withBlob [0x80, 0, 1]).inFlightNow p)).response

/-! ### Legality: one ill-formed packet for each case of R78, refused by that check, and its legal neighbour -/

theorem test_legal_neighbour : Packet.wellFormed ⟨0x10#32, 0x1000#32, 3#32, 7#32, 0#32⟩ = true := by decide
theorem test_case_1_reserved_bit_10 :
    Packet.reservedZero ⟨0x410#32, 0x1000#32, 3#32, 7#32, 0#32⟩ = false ∧
    Packet.wellFormed ⟨0x410#32, 0x1000#32, 3#32, 7#32, 0#32⟩ = false ∧
    decode ⟨0x410#32, 0x1000#32, 3#32, 7#32, 0#32⟩ = .error .reservedBits := by decide
theorem test_case_2_unassigned_opcode :
    Packet.opcodeAssigned ⟨0x23#32, 0#32, 0#32, 0#32, 0#32⟩ = false ∧
    Packet.wellFormed ⟨0x23#32, 0#32, 0#32, 0#32, 0#32⟩ = false ∧
    decode ⟨0x23#32, 0#32, 0#32, 0#32, 0#32⟩ = .error .unknownOpcode := by decide
theorem test_case_3_granularity_not_taken :
    Packet.granAllowed ⟨0x110#32, 0x1000#32, 3#32, 7#32, 0#32⟩ = false ∧
    Packet.wellFormed ⟨0x110#32, 0x1000#32, 3#32, 7#32, 0#32⟩ = false ∧
    decode ⟨0x110#32, 0x1000#32, 3#32, 7#32, 0#32⟩ = .error .badGranularity := by decide
theorem test_case_4_window_g1 :
    Packet.notWindowG1 ⟨0x150#32, 0x1000#32, 4#32, 0#32, 8#32⟩ = false ∧
    Packet.wellFormed ⟨0x150#32, 0x1000#32, 4#32, 0#32, 8#32⟩ = false ∧
    decode ⟨0x150#32, 0x1000#32, 4#32, 0#32, 8#32⟩ = .error .badGranularity := by decide
theorem test_case_5_must_be_zero :
    Packet.unusedZero ⟨0x34#32, 0x12345678#32, 1#32, 4#32, 0#32⟩ = false ∧
    Packet.wellFormed ⟨0x34#32, 0x12345678#32, 1#32, 4#32, 0#32⟩ = false ∧
    decode ⟨0x34#32, 0x12345678#32, 1#32, 4#32, 0#32⟩ = .error .mustBeZero := by decide

/-! ### Decoding: a word written out from 30_encoding.md for every command -/

theorem test_decode_getbit :
    decode ⟨control 0b00#2 0b00010000#8, 0x80000011#32, 0x22000002#32, 0xF0330003#32, 0#32⟩ =
      .ok (.getbit 0x80000011#32 0x22000002#32 0xF0330003#32) := by decide
theorem test_decode_getbitw :
    decode ⟨control 0b00#2 0b00010001#8, 0x80000011#32, 0x22000002#32, 0xF0330003#32, 0#32⟩ =
      .ok (.getbitw 0x80000011#32 0x22000002#32 0xF0330003#32) := by decide
theorem test_decode_setbit :
    decode ⟨control 0b00#2 0b00010010#8, 0x80000011#32, 0x22000002#32, 0xF0330003#32, 0#32⟩ =
      .ok (.setbit 0x80000011#32 0x22000002#32 0xF0330003#32) := by decide
theorem test_decode_setbitv :
    decode ⟨control 0b00#2 0b00010011#8, 0x80000011#32, 0x22000002#32, 0xF0330003#32, 0x4400000F#32⟩ =
      .ok (.setbitv 0x80000011#32 0x22000002#32 0xF0330003#32 0x4400000F#32) := by decide
theorem test_decode_clearbit :
    decode ⟨control 0b00#2 0b00010100#8, 0x80000011#32, 0x22000002#32, 0xF0330003#32, 0#32⟩ =
      .ok (.clearbit 0x80000011#32 0x22000002#32 0xF0330003#32) := by decide
theorem test_decode_flipbit :
    decode ⟨control 0b00#2 0b00010101#8, 0x80000011#32, 0x22000002#32, 0xF0330003#32, 0#32⟩ =
      .ok (.flipbit 0x80000011#32 0x22000002#32 0xF0330003#32) := by decide
theorem test_decode_popcountW32 :
    decode ⟨control 0b00#2 0b00100000#8, 0x80000011#32, 0#32, 0#32, 0#32⟩ =
      .ok (.popcountW32 0x80000011#32) := by decide
theorem test_decode_popcountW64 :
    decode ⟨control 0b00#2 0b00100001#8, 0x80000011#32, 0x22000002#32, 0#32, 0#32⟩ =
      .ok (.popcountW64 0x2200000280000011#64) := by decide
theorem test_decode_popcountW128 :
    decode ⟨control 0b00#2 0b00100010#8, 0x80000011#32, 0x22000002#32, 0xF0330003#32, 0x4400000F#32⟩ =
      .ok (.popcountW128 0x2200000280000011#64 0x4400000FF0330003#64) := by decide
theorem test_decode_parityW32 :
    decode ⟨control 0b00#2 0b00100100#8, 0x80000011#32, 0#32, 0#32, 0#32⟩ =
      .ok (.parityW32 0x80000011#32) := by decide
theorem test_decode_parityW64 :
    decode ⟨control 0b00#2 0b00100101#8, 0x80000011#32, 0x22000002#32, 0#32, 0#32⟩ =
      .ok (.parityW64 0x2200000280000011#64) := by decide
theorem test_decode_lshift :
    decode ⟨control 0b00#2 0b00110000#8, 0x80000011#32, 0x22000002#32, 0xF0330003#32, 0#32⟩ =
      .ok (.lshift 0x80000011#32 0x22000002#32 0xF0330003#32) := by decide
theorem test_decode_lshiftG1 :
    decode ⟨control 0b01#2 0b00110000#8, 0x80000011#32, 0x22000002#32, 0xF0330003#32, 0#32⟩ =
      .ok (.lshiftG1 0x80000011#32 0x22000002#32 0xF0330003#32) := by decide
theorem test_decode_lshiftG8 :
    decode ⟨control 0b10#2 0b00110000#8, 0x80000011#32, 0x22000002#32, 0xF0330003#32, 0#32⟩ =
      .ok (.lshiftG8 0x80000011#32 0x22000002#32 0xF0330003#32) := by decide
theorem test_decode_lshiftG32 :
    decode ⟨control 0b11#2 0b00110000#8, 0x80000011#32, 0x22000002#32, 0xF0330003#32, 0#32⟩ =
      .ok (.lshiftG32 0x80000011#32 0x22000002#32 0xF0330003#32) := by decide
theorem test_decode_rshift :
    decode ⟨control 0b00#2 0b00110001#8, 0x80000011#32, 0x22000002#32, 0xF0330003#32, 0#32⟩ =
      .ok (.rshift 0x80000011#32 0x22000002#32 0xF0330003#32) := by decide
theorem test_decode_rshiftG1 :
    decode ⟨control 0b01#2 0b00110001#8, 0x80000011#32, 0x22000002#32, 0xF0330003#32, 0#32⟩ =
      .ok (.rshiftG1 0x80000011#32 0x22000002#32 0xF0330003#32) := by decide
theorem test_decode_rshiftG8 :
    decode ⟨control 0b10#2 0b00110001#8, 0x80000011#32, 0x22000002#32, 0xF0330003#32, 0#32⟩ =
      .ok (.rshiftG8 0x80000011#32 0x22000002#32 0xF0330003#32) := by decide
theorem test_decode_rshiftG32 :
    decode ⟨control 0b11#2 0b00110001#8, 0x80000011#32, 0x22000002#32, 0xF0330003#32, 0#32⟩ =
      .ok (.rshiftG32 0x80000011#32 0x22000002#32 0xF0330003#32) := by decide
theorem test_decode_lshiftW32 :
    decode ⟨control 0b00#2 0b00110100#8, 0x80000011#32, 0#32, 0xF0330003#32, 0#32⟩ =
      .ok (.lshiftW32 0x80000011#32 0xF0330003#32) := by decide
theorem test_decode_rshiftW32 :
    decode ⟨control 0b00#2 0b00110101#8, 0x80000011#32, 0#32, 0xF0330003#32, 0#32⟩ =
      .ok (.rshiftW32 0x80000011#32 0xF0330003#32) := by decide
theorem test_decode_lshiftW64 :
    decode ⟨control 0b00#2 0b00110110#8, 0x80000011#32, 0x22000002#32, 0xF0330003#32, 0#32⟩ =
      .ok (.lshiftW64 0x2200000280000011#64 0xF0330003#32) := by decide
theorem test_decode_rshiftW64 :
    decode ⟨control 0b00#2 0b00110111#8, 0x80000011#32, 0x22000002#32, 0xF0330003#32, 0#32⟩ =
      .ok (.rshiftW64 0x2200000280000011#64 0xF0330003#32) := by decide
theorem test_decode_lrot :
    decode ⟨control 0b00#2 0b01000000#8, 0x80000011#32, 0x22000002#32, 0xF0330003#32, 0#32⟩ =
      .ok (.lrot 0x80000011#32 0x22000002#32 0xF0330003#32) := by decide
theorem test_decode_lrotG1 :
    decode ⟨control 0b01#2 0b01000000#8, 0x80000011#32, 0x22000002#32, 0xF0330003#32, 0#32⟩ =
      .ok (.lrotG1 0x80000011#32 0x22000002#32 0xF0330003#32) := by decide
theorem test_decode_lrotG8 :
    decode ⟨control 0b10#2 0b01000000#8, 0x80000011#32, 0x22000002#32, 0xF0330003#32, 0#32⟩ =
      .ok (.lrotG8 0x80000011#32 0x22000002#32 0xF0330003#32) := by decide
theorem test_decode_lrotG32 :
    decode ⟨control 0b11#2 0b01000000#8, 0x80000011#32, 0x22000002#32, 0xF0330003#32, 0#32⟩ =
      .ok (.lrotG32 0x80000011#32 0x22000002#32 0xF0330003#32) := by decide
theorem test_decode_rrot :
    decode ⟨control 0b00#2 0b01000001#8, 0x80000011#32, 0x22000002#32, 0xF0330003#32, 0#32⟩ =
      .ok (.rrot 0x80000011#32 0x22000002#32 0xF0330003#32) := by decide
theorem test_decode_rrotG1 :
    decode ⟨control 0b01#2 0b01000001#8, 0x80000011#32, 0x22000002#32, 0xF0330003#32, 0#32⟩ =
      .ok (.rrotG1 0x80000011#32 0x22000002#32 0xF0330003#32) := by decide
theorem test_decode_rrotG8 :
    decode ⟨control 0b10#2 0b01000001#8, 0x80000011#32, 0x22000002#32, 0xF0330003#32, 0#32⟩ =
      .ok (.rrotG8 0x80000011#32 0x22000002#32 0xF0330003#32) := by decide
theorem test_decode_rrotG32 :
    decode ⟨control 0b11#2 0b01000001#8, 0x80000011#32, 0x22000002#32, 0xF0330003#32, 0#32⟩ =
      .ok (.rrotG32 0x80000011#32 0x22000002#32 0xF0330003#32) := by decide
theorem test_decode_lrotW32 :
    decode ⟨control 0b00#2 0b01000100#8, 0x80000011#32, 0#32, 0xF0330003#32, 0#32⟩ =
      .ok (.lrotW32 0x80000011#32 0xF0330003#32) := by decide
theorem test_decode_rrotW32 :
    decode ⟨control 0b00#2 0b01000101#8, 0x80000011#32, 0#32, 0xF0330003#32, 0#32⟩ =
      .ok (.rrotW32 0x80000011#32 0xF0330003#32) := by decide
theorem test_decode_lrotW64 :
    decode ⟨control 0b00#2 0b01000110#8, 0x80000011#32, 0x22000002#32, 0xF0330003#32, 0#32⟩ =
      .ok (.lrotW64 0x2200000280000011#64 0xF0330003#32) := by decide
theorem test_decode_rrotW64 :
    decode ⟨control 0b00#2 0b01000111#8, 0x80000011#32, 0x22000002#32, 0xF0330003#32, 0#32⟩ =
      .ok (.rrotW64 0x2200000280000011#64 0xF0330003#32) := by decide
theorem test_decode_window :
    decode ⟨control 0b00#2 0b01010000#8, 0x80000011#32, 0x22000002#32, 0xF0330003#32, 0x4400000F#32⟩ =
      .ok (.window 0x80000011#32 0x22000002#32 0xF0330003#32 0x4400000F#32) := by decide
theorem test_decode_windowG8 :
    decode ⟨control 0b10#2 0b01010000#8, 0x80000011#32, 0x22000002#32, 0xF0330003#32, 0x4400000F#32⟩ =
      .ok (.windowG8 0x80000011#32 0x22000002#32 0xF0330003#32 0x4400000F#32) := by decide
theorem test_decode_windowG32 :
    decode ⟨control 0b11#2 0b01010000#8, 0x80000011#32, 0x22000002#32, 0xF0330003#32, 0x4400000F#32⟩ =
      .ok (.windowG32 0x80000011#32 0x22000002#32 0xF0330003#32 0x4400000F#32) := by decide
theorem test_decode_windowW32 :
    decode ⟨control 0b00#2 0b01010100#8, 0x80000011#32, 0#32, 0xF0330003#32, 0x4400000F#32⟩ =
      .ok (.windowW32 0x80000011#32 0xF0330003#32 0x4400000F#32) := by decide
theorem test_decode_windowW64 :
    decode ⟨control 0b00#2 0b01010110#8, 0x80000011#32, 0x22000002#32, 0xF0330003#32, 0x4400000F#32⟩ =
      .ok (.windowW64 0x2200000280000011#64 0xF0330003#32 0x4400000F#32) := by decide
/-- The numbering of the opcode table: 32 bits give `W[0]`, the operand words above are 0; 160 bits give them all. -/
theorem test_table_word :
    decodeTableWord 32 0x31 = some (.rshift 0#32 0#32 0#32) ∧
    decodeTableWord 160 0x0000000800000003000000040000100000000050 =
      some (.window 0x1000#32 4#32 3#32 8#32) ∧
    decodeTableWord 32 0x23 = none := by decide

/-- The step runs the placed instruction first: `lshift 0, 0, 0` completes (R81), `getbit 0, 0, 0` faults (R246). -/
theorem test_placed_word_runs :
    (after (State.reset.withFetchWord 32 0x30)).response = some ⟨0x00#8, 0#64⟩ ∧
    (after (State.reset.withFetchWord 32 0x10)).response = some ⟨0x04#8, 0#64⟩ ∧
    (after (State.reset.withFetchWord 32 0x23)).response = some ⟨0x01#8, 0#64⟩ := by decide

/-! ### Single commands: STATUS, RESULT, blob afterwards, from sections 2.1 to 2.6 of 95_test_vectors.md -/

theorem test_getbit_top_bit_of_byte_0 :
    outcome (.getbit 0x1000#32 3#32 7#32) [0x80, 0x00, 0x01] =
      some (0, 1, [0x80, 0x00, 0x01]) := by decide
theorem test_getbit_index_past_the_end :
    outcome (.getbit 0x1000#32 3#32 24#32) [0x80, 0x00, 0x01] =
      some (4, 0, [0x80, 0x00, 0x01]) := by decide
theorem test_getbitw_wraps :
    outcome (.getbitw 0x1000#32 3#32 31#32) [0x80, 0x00, 0x01] =
      some (0, 1, [0x80, 0x00, 0x01]) := by decide
theorem test_getbitw_empty :
    outcome (.getbitw 0x1000#32 0#32 5#32) [0x80, 0x00, 0x01] =
      some (2, 0, [0x80, 0x00, 0x01]) := by decide
theorem test_setbit_last_bit :
    outcome (.setbit 0x1000#32 3#32 23#32) [0x80, 0x00, 0x01] =
      some (0, 0, [0x80, 0x00, 0x81]) := by decide
theorem test_setbit_index_past_the_end :
    outcome (.setbit 0x1000#32 3#32 24#32) [0x80, 0x00, 0x01] =
      some (4, 0, [0x80, 0x00, 0x01]) := by decide
theorem test_setbitv_any_nonzero_value :
    outcome (.setbitv 0x1000#32 3#32 9#32 0x80000000#32) [0x80, 0x00, 0x01] =
      some (0, 0, [0x80, 0x02, 0x01]) := by decide
theorem test_setbitv_zero_clears :
    outcome (.setbitv 0x1000#32 3#32 7#32 0#32) [0x80, 0x00, 0x01] =
      some (0, 0, [0x00, 0x00, 0x01]) := by decide
theorem test_clearbit :
    outcome (.clearbit 0x1000#32 3#32 16#32) [0x80, 0x00, 0x01] =
      some (0, 0, [0x80, 0x00, 0x00]) := by decide
theorem test_clearbit_already_clear :
    outcome (.clearbit 0x1000#32 3#32 15#32) [0x80, 0x00, 0x01] =
      some (0, 0, [0x80, 0x00, 0x01]) := by decide
theorem test_flipbit_clears :
    outcome (.flipbit 0x1000#32 3#32 7#32) [0x80, 0x00, 0x01] =
      some (0, 0, [0x00, 0x00, 0x01]) := by decide
theorem test_flipbit_sets :
    outcome (.flipbit 0x1000#32 3#32 8#32) [0x80, 0x00, 0x01] =
      some (0, 0, [0x80, 0x01, 0x01]) := by decide
theorem test_popcountW32 :
    outcome (.popcountW32 0xDEADBEEF#32) [] =
      some (0, 24, []) := by decide
theorem test_popcountW32_all :
    outcome (.popcountW32 0xFFFFFFFF#32) [] =
      some (0, 32, []) := by decide
theorem test_popcountW64 :
    outcome (.popcountW64 0x00000001FFFFFFFF#64) [] =
      some (0, 33, []) := by decide
theorem test_popcountW64_ends :
    outcome (.popcountW64 0x8000000000000001#64) [] =
      some (0, 2, []) := by decide
theorem test_popcountW128_all :
    outcome (.popcountW128 0xFFFFFFFFFFFFFFFF#64 0xFFFFFFFFFFFFFFFF#64) [] =
      some (0, 128, []) := by decide
theorem test_popcountW128_halves :
    outcome (.popcountW128 0xFFFFFFFFFFFFFFFF#64 1#64) [] =
      some (0, 65, []) := by decide
theorem test_parityW32_odd :
    outcome (.parityW32 0x12345678#32) [] =
      some (0, 1, []) := by decide
theorem test_parityW32_even :
    outcome (.parityW32 0xDEADBEEF#32) [] =
      some (0, 0, []) := by decide
theorem test_parityW64_odd :
    outcome (.parityW64 0x00000001FFFFFFFF#64) [] =
      some (0, 1, []) := by decide +kernel
theorem test_parityW64_even :
    outcome (.parityW64 0x8000000000000001#64) [] =
      some (0, 0, []) := by decide +kernel
theorem test_lshift_crosses_bytes :
    outcome (.lshift 0x1000#32 5#32 9#32) [0xEF, 0xCD, 0xAB, 0x89, 0x67] =
      some (0, 0, [0x00, 0xDE, 0x9B, 0x57, 0x13]) := by decide
theorem test_lshift_saturates :
    outcome (.lshift 0x1000#32 5#32 40#32) [0xEF, 0xCD, 0xAB, 0x89, 0x67] =
      some (0, 0, [0x00, 0x00, 0x00, 0x00, 0x00]) := by decide
theorem test_lshiftG1 :
    outcome (.lshiftG1 0x1000#32 3#32 7#32) [0x80, 0x00, 0x01] =
      some (0, 0, [0x00, 0x40, 0x80]) := by decide
theorem test_lshiftG1_negative_amount :
    outcome (.lshiftG1 0x1000#32 3#32 0xFFFFFFFF#32) [0x80, 0x00, 0x01] =
      some (5, 0, [0x80, 0x00, 0x01]) := by decide
theorem test_lshiftG8 :
    outcome (.lshiftG8 0x1000#32 3#32 9#32) [0x80, 0x00, 0x01] =
      some (0, 0, [0x00, 0x00, 0x01]) := by decide
theorem test_lshiftG8_most_negative_amount :
    outcome (.lshiftG8 0x1000#32 3#32 0x80000000#32) [0x80, 0x00, 0x01] =
      some (5, 0, [0x80, 0x00, 0x01]) := by decide
theorem test_lshiftG32 :
    outcome (.lshiftG32 0x1000#32 8#32 9#32) [0xEF, 0xCD, 0xAB, 0x89, 0x67, 0x45, 0x23, 0x01] =
      some (0, 0, [0x00, 0xDE, 0x9B, 0x57, 0x13, 0xCF, 0x8A, 0x46]) := by decide
theorem test_lshiftG32_length_fault_before_amount_fault :
    outcome (.lshiftG32 0x1000#32 3#32 0xFFFFFFFF#32) [0x80, 0x00, 0x01] =
      some (3, 0, [0x80, 0x00, 0x01]) := by decide
theorem test_rshift_crosses_bytes :
    outcome (.rshift 0x1000#32 5#32 9#32) [0xEF, 0xCD, 0xAB, 0x89, 0x67] =
      some (0, 0, [0xE6, 0xD5, 0xC4, 0x33, 0x00]) := by decide
theorem test_rshift_shifts_zeros_in :
    outcome (.rshift 0x1000#32 5#32 7#32) [0xEF, 0xCD, 0xAB, 0x89, 0x67] =
      some (0, 0, [0x9B, 0x57, 0x13, 0xCF, 0x00]) := by decide
theorem test_rshiftG1 :
    outcome (.rshiftG1 0x1000#32 3#32 9#32) [0x80, 0x00, 0x01] =
      some (0, 0, [0x80, 0x00, 0x00]) := by decide
theorem test_rshiftG1_amount_zero :
    outcome (.rshiftG1 0x1000#32 3#32 0#32) [0x80, 0x00, 0x01] =
      some (0, 0, [0x80, 0x00, 0x01]) := by decide
theorem test_rshiftG8 :
    outcome (.rshiftG8 0x1000#32 2#32 7#32) [0x34, 0x12] =
      some (0, 0, [0x24, 0x00]) := by decide
theorem test_rshiftG8_length_three :
    outcome (.rshiftG8 0x1000#32 3#32 1#32) [0x80, 0x00, 0x01] =
      some (0, 0, [0x40, 0x80, 0x00]) := by decide
theorem test_rshiftG32 :
    outcome (.rshiftG32 0x1000#32 4#32 9#32) [0x78, 0x56, 0x34, 0x12] =
      some (0, 0, [0x2B, 0x1A, 0x09, 0x00]) := by decide
theorem test_rshiftG32_odd_length :
    outcome (.rshiftG32 0x1000#32 5#32 1#32) [0xEF, 0xCD, 0xAB, 0x89, 0x67] =
      some (3, 0, [0xEF, 0xCD, 0xAB, 0x89, 0x67]) := by decide
theorem test_lshiftW32 :
    outcome (.lshiftW32 0x12345678#32 4#32) [] =
      some (0, 0x23456780, []) := by decide
theorem test_lshiftW32_by_the_width :
    outcome (.lshiftW32 0x12345678#32 32#32) [] =
      some (0, 0, []) := by decide
theorem test_rshiftW32_logical :
    outcome (.rshiftW32 0x80000000#32 31#32) [] =
      some (0, 1, []) := by decide
theorem test_rshiftW32_negative_amount :
    outcome (.rshiftW32 0x12345678#32 0xFFFFFFFF#32) [] =
      some (5, 0, []) := by decide
theorem test_lshiftW64 :
    outcome (.lshiftW64 0x0123456789ABCDEF#64 36#32) [] =
      some (0, 0x9ABCDEF000000000, []) := by decide
theorem test_lshiftW64_by_63 :
    outcome (.lshiftW64 0x0123456789ABCDEF#64 63#32) [] =
      some (0, 0x8000000000000000, []) := by decide
theorem test_rshiftW64 :
    outcome (.rshiftW64 0x0123456789ABCDEF#64 36#32) [] =
      some (0, 0x123456, []) := by decide
theorem test_rshiftW64_logical :
    outcome (.rshiftW64 0x8000000000000000#64 63#32) [] =
      some (0, 1, []) := by decide
theorem test_lrot_wraps_bytes :
    outcome (.lrot 0x1000#32 5#32 9#32) [0xEF, 0xCD, 0xAB, 0x89, 0x67] =
      some (0, 0, [0xCF, 0xDE, 0x9B, 0x57, 0x13]) := by decide
theorem test_lrot_most_negative_amount :
    outcome (.lrot 0x1000#32 5#32 0x80000000#32) [0xEF, 0xCD, 0xAB, 0x89, 0x67] =
      some (0, 0, [0xCD, 0xAB, 0x89, 0x67, 0xEF]) := by decide
theorem test_lrotG1_minus_one :
    outcome (.lrotG1 0x1000#32 5#32 0xFFFFFFFF#32) [0xEF, 0xCD, 0xAB, 0x89, 0x67] =
      some (0, 0, [0xF7, 0xE6, 0xD5, 0xC4, 0xB3]) := by decide
theorem test_lrotG1_reduced :
    outcome (.lrotG1 0x1000#32 1#32 11#32) [0xA5] =
      some (0, 0, [0x2D]) := by decide
theorem test_lrotG8 :
    outcome (.lrotG8 0x1000#32 3#32 9#32) [0x80, 0x00, 0x01] =
      some (0, 0, [0x02, 0x00, 0x01]) := by decide
theorem test_lrotG8_largest_amount :
    outcome (.lrotG8 0x1000#32 3#32 0x7FFFFFFF#32) [0x80, 0x00, 0x01] =
      some (0, 0, [0x00, 0x40, 0x80]) := by decide
theorem test_lrotG32 :
    outcome (.lrotG32 0x1000#32 4#32 35#32) [0x78, 0x56, 0x34, 0x12] =
      some (0, 0, [0xC0, 0xB3, 0xA2, 0x91]) := by decide
theorem test_lrotG32_odd_length :
    outcome (.lrotG32 0x1000#32 3#32 1#32) [0x80, 0x00, 0x01] =
      some (3, 0, [0x80, 0x00, 0x01]) := by decide
theorem test_rrot_wraps_bytes :
    outcome (.rrot 0x1000#32 5#32 9#32) [0xEF, 0xCD, 0xAB, 0x89, 0x67] =
      some (0, 0, [0xE6, 0xD5, 0xC4, 0xB3, 0xF7]) := by decide
theorem test_rrot_empty :
    outcome (.rrot 0x1000#32 0#32 5#32) [] =
      some (0, 0, []) := by decide
theorem test_rrotG1 :
    outcome (.rrotG1 0x1000#32 3#32 27#32) [0x80, 0x00, 0x01] =
      some (0, 0, [0x10, 0x20, 0x00]) := by decide
theorem test_rrotG1_full_turn :
    outcome (.rrotG1 0x1000#32 2#32 16#32) [0x34, 0x12] =
      some (0, 0, [0x34, 0x12]) := by decide
theorem test_rrotG8_negative_amount :
    outcome (.rrotG8 0x1000#32 3#32 0xFFFFFFF7#32) [0x80, 0x00, 0x01] =
      some (0, 0, [0x02, 0x00, 0x01]) := by decide
theorem test_rrotG8 :
    outcome (.rrotG8 0x1000#32 2#32 19#32) [0x34, 0x12] =
      some (0, 0, [0x46, 0x82]) := by decide
theorem test_rrotG32 :
    outcome (.rrotG32 0x1000#32 8#32 67#32) [0xEF, 0xCD, 0xAB, 0x89, 0x67, 0x45, 0x23, 0x01] =
      some (0, 0, [0xBD, 0x79, 0x35, 0xF1, 0xAC, 0x68, 0x24, 0xE0]) := by decide
theorem test_rrotG32_odd_length :
    outcome (.rrotG32 0x1000#32 5#32 1#32) [0xEF, 0xCD, 0xAB, 0x89, 0x67] =
      some (3, 0, [0xEF, 0xCD, 0xAB, 0x89, 0x67]) := by decide
theorem test_lrotW32 :
    outcome (.lrotW32 0x12345678#32 8#32) [] =
      some (0, 0x34567812, []) := by decide
theorem test_lrotW32_minus_one :
    outcome (.lrotW32 0x12345678#32 0xFFFFFFFF#32) [] =
      some (0, 0x091A2B3C, []) := by decide
theorem test_rrotW32 :
    outcome (.rrotW32 0x12345678#32 8#32) [] =
      some (0, 0x78123456, []) := by decide
theorem test_rrotW32_minus_eight :
    outcome (.rrotW32 0x12345678#32 0xFFFFFFF8#32) [] =
      some (0, 0x34567812, []) := by decide
theorem test_lrotW64 :
    outcome (.lrotW64 0x0123456789ABCDEF#64 8#32) [] =
      some (0, 0x23456789ABCDEF01, []) := by decide
theorem test_lrotW64_minus_one :
    outcome (.lrotW64 0x0123456789ABCDEF#64 0xFFFFFFFF#32) [] =
      some (0, 0x8091A2B3C4D5E6F7, []) := by decide
theorem test_rrotW64 :
    outcome (.rrotW64 0x0123456789ABCDEF#64 8#32) [] =
      some (0, 0xEF0123456789ABCD, []) := by decide
theorem test_rrotW64_largest_amount :
    outcome (.rrotW64 0x0123456789ABCDEF#64 0x7FFFFFFF#32) [] =
      some (0, 0x02468ACF13579BDE, []) := by decide
theorem test_window_wraps :
    outcome (.window 0x1000#32 3#32 23#32 2#32) [0x01, 0x00, 0x80] =
      some (0, 3, [0x01, 0x00, 0x80]) := by decide
theorem test_window_count_above_the_blob :
    outcome (.window 0x1000#32 3#32 0#32 25#32) [0x80, 0x00, 0x01] =
      some (6, 0, [0x80, 0x00, 0x01]) := by decide
theorem test_windowG8 :
    outcome (.windowG8 0x1000#32 5#32 7#32 10#32) [0xEF, 0xCD, 0xAB, 0x89, 0x67] =
      some (0, 0x39B, [0xEF, 0xCD, 0xAB, 0x89, 0x67]) := by decide
theorem test_windowG8_empty :
    outcome (.windowG8 0x1000#32 0#32 0#32 1#32) [] =
      some (2, 0, []) := by decide
theorem test_windowG32_wraps :
    outcome (.windowG32 0x1000#32 4#32 28#32 8#32) [0x78, 0x56, 0x34, 0x12] =
      some (0, 0x81, [0x78, 0x56, 0x34, 0x12]) := by decide
theorem test_windowG32_odd_length :
    outcome (.windowG32 0x1000#32 3#32 0#32 0#32) [0x80, 0x00, 0x01] =
      some (3, 0, [0x80, 0x00, 0x01]) := by decide
theorem test_windowW32_wraps :
    outcome (.windowW32 0x80000001#32 31#32 2#32) [] =
      some (0, 3, []) := by decide
theorem test_windowW32_count_33 :
    outcome (.windowW32 0x12345678#32 0#32 33#32) [] =
      some (6, 0, []) := by decide
theorem test_windowW64_wraps :
    outcome (.windowW64 0x0123456789ABCDEF#64 60#32 8#32) [] =
      some (0, 0xF0, []) := by decide
theorem test_windowW64_start_reduced :
    outcome (.windowW64 0x0123456789ABCDEF#64 0xFFFFFFFF#32 4#32) [] =
      some (0, 0xE, []) := by decide
/-! ### Admission and priority (section 2.6) -/

theorem test_blob_past_the_top : responseTo ⟨0x30#32, 0xFFFFFFFF#32, 2#32, 1#32, 0#32⟩ = some ⟨0x02#8, 0#64⟩ := by decide
theorem test_last_byte_of_memory : responseTo ⟨0x30#32, 0xFFFFFFFF#32, 1#32, 1#32, 0#32⟩ = some ⟨0x00#8, 0#64⟩ := by decide
theorem test_window_g32_empty : responseTo ⟨0x350#32, 0x1000#32, 0#32, 0#32, 0#32⟩ = some ⟨0x02#8, 0#64⟩ := by decide
theorem test_getbit_word_4_not_zero : responseTo ⟨0x10#32, 0x1000#32, 3#32, 7#32, 1#32⟩ = some ⟨0x01#8, 0#64⟩ := by decide

/-! ### Memory, the host's moves, reset, races -/

/-- R42: the byte at the lowest address is the low byte of a word. -/
theorem test_word_is_little_endian : (withBlob [0x78, 0x56, 0x34, 0x12]).mem.readWord 0x1000 = 0x12345678#32 := by decide

/-- R26: an offer waits for the command in flight; then it is accepted and the response before it is kept. -/
theorem test_offer_waits :
    let q : Packet := ⟨0x10#32, 0x1000#32, 3#32, 7#32, 0#32⟩
    let s : State := { (withBlob [0x80, 0, 1]) with moves := [.issue q, .issue q, .await] }
    (after s).inFlight = some q ∧ (after (after s)).inFlight = none ∧
    (after (after (after s))).record = [⟨0x00#8, 1#64⟩] := by decide

/-- R275: a foreign write into the blob in flight is noticed by the model, one beside it is not. -/
theorem test_race :
    let s : State := (withBlob [0x80, 0, 1]).inFlightNow ⟨0x12#32, 0x1000#32, 3#32, 8#32, 0#32⟩
    (after { s with moves := [.store 0x1002 5#8] }).raced = true ∧
    (after { s with moves := [.store 0x1003 5#8] }).raced = false := by decide

/-- R271: a reset abandons a command that only reads, and memory is not touched. -/
theorem test_reset :
    let s : State := (withBlob [0x80, 0, 1]).inFlightNow ⟨0x10#32, 0x1000#32, 3#32, 8#32, 0#32⟩
    (after { s with moves := [.reset] }) = withBlob [0x80, 0, 1] := by decide

/-- R245, R270: a fault delivered and not yet consumed is kept over a reset, though no response is pending after it. -/
theorem test_reset_keeps_a_fault :
    let s : State := { withBlob [0x80, 0, 1] with response := some ⟨0x04#8, 0#64⟩, moves := [.reset] }
    (after s).response = none ∧ (after s).record = [⟨0x04#8, 0#64⟩] ∧ (after s).goneWrong = true := by decide

/-- The lower bounds of the parameters (R7, 92_eei_decisions.md). -/
theorem test_parameter_ranges :
    Params.legal ⟨17, 0x1000, 1⟩ = true ∧ Params.legal ⟨17, 0x1000, 0⟩ = false ∧
    Params.legal ⟨16, 0x1000, 1⟩ = false := by decide

/-! ### The assembler (R80, R81) -/

theorem test_assemble_example :
    assembleLine "window 0x1000, 4, 3, 8  # the example of R80" =
      .ok ⟨0x50#32, 0x1000#32, 4#32, 3#32, 8#32⟩ := by decide
theorem test_assemble_minus :
    assembleLine "lrot.w32 0x23456780, -4" = .ok ⟨0x44#32, 0x23456780#32, 0#32, 0xFFFFFFFC#32, 0#32⟩ := by decide
theorem test_assemble_pseudo :
    assembleLine "zero 0x2000, 5" = .ok ⟨0x30#32, 0x2000#32, 5#32, 40#32, 0#32⟩ := by decide

/-! ### Strategies: one row of 95_test_vectors.md for each loop -/

theorem test_loops_shift_left :
    bytesAt (lshiftByBits (withBlob [0x80, 0, 1]).mem 0x1000 3 9) 3 = [0, 0, 1] ∧
    bytesAt (lshiftByBytes (withBlob [0x80, 0, 1]).mem 0x1000 3 9) 3 = [0, 0, 1] ∧
    bytesAt (lshiftByWords (withBlob [0x78, 0x56, 0x34, 0x12]).mem 0x1000 4 9) 4 = [0, 0xF0, 0xAC, 0x68] := by
  decide +kernel
theorem test_loops_shift_right :
    bytesAt (rshiftByBits (withBlob [0x80, 0, 1]).mem 0x1000 3 9) 3 = [0x80, 0, 0] ∧
    bytesAt (rshiftByBytes (withBlob [0x80, 0, 1]).mem 0x1000 3 9) 3 = [0x80, 0, 0] ∧
    bytesAt (rshiftByWords (withBlob [0x78, 0x56, 0x34, 0x12]).mem 0x1000 4 9) 4 = [0x2B, 0x1A, 0x09, 0] := by
  decide +kernel
theorem test_loops_rotate_left :
    bytesAt (lrotByBits (withBlob [0xA5]).mem 0x1000 1 3) 1 = [0x2D] ∧
    bytesAt (lrotByBytes (withBlob [0x80, 0, 1]).mem 0x1000 3 9) 3 = [2, 0, 1] ∧
    bytesAt (lrotByWords (withBlob [0x78, 0x56, 0x34, 0x12]).mem 0x1000 4 9) 4 = [0x24, 0xF0, 0xAC, 0x68] := by
  decide +kernel
theorem test_loops_rotate_right :
    bytesAt (rrotByBits (withBlob [0xA5]).mem 0x1000 1 3) 1 = [0xB4] ∧
    bytesAt (rrotByBytes (withBlob [0x80, 0, 1]).mem 0x1000 3 9) 3 = [0x80, 0, 0x40] ∧
    bytesAt (rrotByWords (withBlob [0x78, 0x56, 0x34, 0x12]).mem 0x1000 4 9) 4 = [0x2B, 0x1A, 0x09, 0x3C] := by
  decide +kernel
theorem test_loops_window :
    windowByBytes (withBlob [0xEF, 0xCD, 0xAB, 0x89, 0x67]).mem 0x1000 5 7 10 = 0x39B ∧
    windowByWords (withBlob [0x78, 0x56, 0x34, 0x12]).mem 0x1000 4 28 8 = 0x81 := by decide

/-! ### Witnesses: for each statement with hypotheses, a concrete state and operands that meet them

The host of `three` and `four` has no move to make, so `HostWaits` holds of them by its first case. -/

/-- The blob `80 00 01` at 0x1000, nothing in flight. -/
def three : State := withBlob [0x80, 0, 1]

/-- The blob `78 56 34 12` at 0x1000. -/
def four : State := withBlob [0x78, 0x56, 0x34, 0x12]

/-- The next state of an answer, so that `decide` can compare it. -/
def nextOf : Answer → Option State
  | .next t => some t
  | .fault _ => none
  | .refused _ => none

theorem is_next {o : Answer} {t : State} (h : nextOf o = some t) : o = .next t := by
  cases o <;> simp_all [nextOf]

/-- The packet of `getbit 0x1000, 3, bit`. -/
def getbitPacket (bit : Word) : Packet := ⟨0x10#32, 0x1000#32, 3#32, bit, 0#32⟩

/-- The packet of `setbit 0x1000, 3, 8`. -/
def setbitPacket : Packet := ⟨0x12#32, 0x1000#32, 3#32, 8#32, 0#32⟩

theorem witness_EncodeOfDecodeIsIdentity : decode (getbitPacket 7#32) = .ok (.getbit 0x1000#32 3#32 7#32) := by decide

/-- The clauses of `zero` meet at `8 * len = 2^31`. -/
theorem witness_PseudoInstructionsExpand :
    (8 * (2 ^ 28 - 1 : Int) ≤ 2 ^ 31 - 1) ∧ ((2 : Int) ^ 31 - 1 < 8 * 2 ^ 28) := by decide

theorem witness_AssembledPacketsAreLegal :
    assembleLine "getbit 0x1000, 3, 7" = .ok (getbitPacket 7#32) := by decide

theorem witness_StepRunsTheDecodedCommand :
    (three.inFlightNow (getbitPacket 7#32)).inFlight = some (getbitPacket 7#32) ∧
    decode (getbitPacket 7#32) = .ok (.getbit 0x1000#32 3#32 7#32) ∧
    (three.inFlightNow (getbitPacket 7#32)).raced = false ∧ HostWaits (three.inFlightNow (getbitPacket 7#32)) :=
  ⟨rfl, by decide, rfl, .inl rfl⟩

/-- The three cases of `HostWaits`. -/
theorem witness_HostWaits :
    HostWaits three ∧ HostWaits { three with moves := [.issue setbitPacket] } ∧
    HostWaits { three with moves := [.await] } :=
  ⟨.inl rfl, .inr (.inl ⟨_, _, rfl⟩), .inr (.inr ⟨_, rfl⟩)⟩

theorem witness_IllegalPacketFaults :
    (three.inFlightNow ⟨0x23#32, 0#32, 0#32, 0#32, 0#32⟩).inFlight = some ⟨0x23#32, 0#32, 0#32, 0#32, 0#32⟩ ∧
    Packet.wellFormed ⟨0x23#32, 0#32, 0#32, 0#32, 0#32⟩ = false ∧
    HostWaits (three.inFlightNow ⟨0x23#32, 0#32, 0#32, 0#32, 0#32⟩) :=
  ⟨rfl, by decide, .inl rfl⟩

theorem witness_IdleUnitWaits : State.reset.inFlight = none ∧ State.reset.moves = [] := ⟨rfl, rfl⟩

theorem witness_OfferWaitsForTheCommandInFlight :
    ({ three with moves := [.issue setbitPacket] }).moves = .issue setbitPacket :: [] ∧
    ({ three with moves := [.issue setbitPacket] }).inFlight = none ∧
    ({ three.inFlightNow (getbitPacket 7#32) with moves := [.issue setbitPacket] }).inFlight =
      some (getbitPacket 7#32) := ⟨rfl, rfl, rfl⟩

theorem witness_HostProgramGetsOneResponsePerPacket :
    three.inFlight = none ∧ three.response = none ∧
    ({ three with moves := [.issue setbitPacket, .issue (getbitPacket 24#32), .await] }).moves =
      [setbitPacket, getbitPacket 24#32].map HostMove.issue ++ [.await] := ⟨rfl, rfl, rfl⟩

/-- The clauses of the reset: nothing in flight, an illegal packet, a reading, a value and a writing command. -/
theorem witness_ResetAbandonsTheCommandInFlight :
    ({ three with moves := [.reset] }).moves = .reset :: [] ∧ three.inFlight = none ∧
    decode ⟨0x23#32, 0#32, 0#32, 0#32, 0#32⟩ = .error .unknownOpcode ∧
    decode (getbitPacket 7#32) = .ok (.getbit 0x1000#32 3#32 7#32) ∧
    writesMemory (.getbit 0x1000#32 3#32 7#32) = false ∧ (three.inFlightNow (getbitPacket 7#32)).raced = false ∧
    decode ⟨0x20#32, 1#32, 0#32, 0#32, 0#32⟩ = .ok (.popcountW32 1#32) ∧ blobOf (.popcountW32 1#32) = none ∧
    decode setbitPacket = .ok (.setbit 0x1000#32 3#32 8#32) ∧
    blobOf (.setbit 0x1000#32 3#32 8#32) = some (0x1000, 3) := by decide

/-- A writing command steps from a state that meets the invariant. -/
theorem witness_EveryStepKeepsTheInvariant :
    (three.inFlightNow setbitPacket).inv = true ∧
    step (three.inFlightNow setbitPacket) = .next (after (three.inFlightNow setbitPacket)) := by
  and_intros <;> first | decide | exact is_next (by decide)

theorem witness_StepKeepsParametersAndRecord :
    step { three with response := some ⟨0x04#8, 0#64⟩, moves := [.await] } =
      .next { three with record := [⟨0x04#8, 0#64⟩] } :=
  is_next (by decide)

/-- A command on a blob, and a value command. -/
theorem witness_CommandWritesOnlyItsBlob :
    exec (.setbit 0x1000#32 3#32 8#32) three = .next (after (three.inFlightNow setbitPacket)) ∧
    blobOf (.setbit 0x1000#32 3#32 8#32) = some (0x1000, 3) ∧
    exec (.popcountW32 1#32) three = .next (three.deliver ⟨0x00#8, 1#64⟩) ∧
    blobOf (.popcountW32 1#32) = none := by
  and_intros <;> first | decide | exact is_next (by decide)

/-- Two memories that agree inside the blob and differ beside it. -/
theorem witness_CommandReadsOnlyItsBlob :
    (withBlob [0x80, 0, 1, 9]).params = three.params ∧
    blobOf (.getbit 0x1000#32 3#32 7#32) = some (0x1000, 3) ∧
    SameInside 0x1000 3 three.mem (withBlob [0x80, 0, 1, 9]).mem ∧
    exec (.getbit 0x1000#32 3#32 7#32) three = .next (three.deliver ⟨0x00#8, 1#64⟩) ∧
    exec (.getbit 0x1000#32 3#32 7#32) (withBlob [0x80, 0, 1, 9]) =
      .next ((withBlob [0x80, 0, 1, 9]).deliver ⟨0x00#8, 1#64⟩) := by
  refine ⟨rfl, rfl, fun a h k => ?_, is_next (by decide), is_next (by decide)⟩
  obtain rfl | rfl | rfl : a = 0x1000 ∨ a = 0x1001 ∨ a = 0x1002 := by omega
  all_goals decide

theorem witness_NothingSurvivesBetweenCommands :
    ({ three with response := some ⟨0x04#8, 0#64⟩ }).params = three.params ∧
    ({ three with response := some ⟨0x04#8, 0#64⟩ }).mem = three.mem ∧
    exec (.getbit 0x1000#32 3#32 7#32) three = .next (three.deliver ⟨0x00#8, 1#64⟩) ∧
    exec (.getbit 0x1000#32 3#32 7#32) { three with response := some ⟨0x04#8, 0#64⟩ } =
      .next (three.deliver ⟨0x00#8, 1#64⟩) := by
  and_intros <;> first | decide | exact is_next (by decide)

theorem witness_ReadingCommandsWriteNothing :
    writesMemory (.getbit 0x1000#32 3#32 7#32) = false ∧
    exec (.getbit 0x1000#32 3#32 7#32) three = .next (three.deliver ⟨0x00#8, 1#64⟩) := by
  and_intros <;> first | decide | exact is_next (by decide)

/-- A command that faults, in flight: `getbit` one past the last bit. -/
theorem witness_FaultHasNoEffectButItsResponse :
    (three.inFlightNow (getbitPacket 24#32)).inFlight = some (getbitPacket 24#32) ∧
    HostWaits (three.inFlightNow (getbitPacket 24#32)) ∧
    step (three.inFlightNow (getbitPacket 24#32)) = .next (three.deliver ⟨0x04#8, 0#64⟩) ∧
    (three.deliver ⟨0x04#8, 0#64⟩).response = some ⟨0x04#8, 0#64⟩ ∧ (0x04#8 : BitVec 8) ≠ 0x00#8 :=
  ⟨rfl, .inl rfl, is_next (by decide), rfl, by decide⟩

theorem witness_FaultIsForgottenByTheNextCommand :
    (three.inFlightNow ⟨0#32, 0#32, 0#32, 0#32, 0#32⟩).inFlight = some ⟨0#32, 0#32, 0#32, 0#32, 0#32⟩ ∧
    HostWaits (three.inFlightNow ⟨0#32, 0#32, 0#32, 0#32, 0#32⟩) ∧
    step (three.inFlightNow ⟨0#32, 0#32, 0#32, 0#32, 0#32⟩) = .next (three.deliver ⟨0x01#8, 0#64⟩) ∧
    (three.deliver ⟨0x01#8, 0#64⟩).response = some ⟨0x01#8, 0#64⟩ ∧ (0x01#8 : BitVec 8) ≠ 0x00#8 :=
  ⟨rfl, .inl rfl, is_next (by decide), rfl, by decide⟩

/-- Each fault a command can raise, raised. -/
theorem witness_EachFaultIsRaisedByItsCommandsOnly :
    exec (.lshift 0xFFFFFFFF#32 2#32 1#32) three = .next (three.deliver ⟨0x02#8, 0#64⟩) ∧
    exec (.lshiftG32 0x1000#32 3#32 1#32) three = .next (three.deliver ⟨0x03#8, 0#64⟩) ∧
    exec (.getbit 0x1000#32 3#32 24#32) three = .next (three.deliver ⟨0x04#8, 0#64⟩) ∧
    exec (.lshift 0x1000#32 3#32 0xFFFFFFFF#32) three = .next (three.deliver ⟨0x05#8, 0#64⟩) ∧
    exec (.window 0x1000#32 3#32 0#32 25#32) three = .next (three.deliver ⟨0x06#8, 0#64⟩) := by
  and_intros <;> first | decide | exact is_next (by decide)

/-- A largest result of each range, a mutator, a fault. -/
theorem witness_ResultStaysInTheRangeOfItsOperation :
    exec (.getbit 0x1000#32 3#32 7#32) three = .next (three.deliver ⟨0x00#8, 1#64⟩) ∧
    (encode (.getbit 0x1000#32 3#32 7#32)).w0 ∈ [0x10#32, 0x11#32, 0x24#32, 0x25#32] ∧
    exec (.popcountW32 0xFFFFFFFF#32) three = .next (three.deliver ⟨0x00#8, 32#64⟩) ∧
    exec (.popcountW64 0xFFFFFFFFFFFFFFFF#64) three = .next (three.deliver ⟨0x00#8, 64#64⟩) ∧
    exec (.popcountW128 0xFFFFFFFFFFFFFFFF#64 0xFFFFFFFFFFFFFFFF#64) three =
      .next (three.deliver ⟨0x00#8, 128#64⟩) ∧
    exec (.windowW32 0xFFFFFFFF#32 0#32 32#32) three = .next (three.deliver ⟨0x00#8, 0xFFFFFFFF#64⟩) ∧
    writesMemory (.setbit 0x1000#32 3#32 8#32) = true ∧
    exec (.setbit 0x1000#32 3#32 8#32) three = .next (after (three.inFlightNow setbitPacket)) ∧
    exec (.getbit 0x1000#32 3#32 24#32) three = .next (three.deliver ⟨0x04#8, 0#64⟩) := by
  and_intros <;> first | decide | exact is_next (by decide)

/-- The three ways not to be admitted, each at its boundary. -/
theorem witness_UnadmittedBlobFaultsBadLen :
    blobOf (.lshift 0x1000#32 18#32 1#32) = some (0x1000, 18) ∧ 18 > ({ three.params with maxLen := 17 }).maxLen ∧
    blobOf (.lshift 0xFFFFFFFF#32 2#32 1#32) = some (0xFFFFFFFF, 2) ∧ 0xFFFFFFFF + 2 > 2 ^ 32 ∧
    blobOf (.lshift 0xFFF#32 1#32 1#32) = some (0xFFF, 1) ∧
    0xFFF < ({ three.params with blobBase := 0x1000, blobSize := 4 }).blobBase ∧
    blobOf (.lshift 0x1003#32 2#32 1#32) = some (0x1003, 2) ∧
    0x1003 + 2 > ({ three.params with blobBase := 0x1000, blobSize := 4 }).blobBase +
      ({ three.params with blobBase := 0x1000, blobSize := 4 }).blobSize := by decide

/-- Amounts on both sides of 0, and a member of each list. -/
theorem witness_EmptyBlobTable :
    (0 : Int) ≤ (0x0#32 : Word).toInt ∧ (0xFFFFFFFF#32 : Word).toInt < 0 ∧
    Instr.rshiftG32 5#32 0#32 1#32 ∈ [Instr.lshift 5#32 0#32 1#32, .rshiftG32 5#32 0#32 1#32] ∧
    Instr.rrotG32 5#32 0#32 1#32 ∈ [Instr.lrot 5#32 0#32 1#32, .rrotG32 5#32 0#32 1#32] := by decide

theorem witness_FaultPriorityExamples : Admitted three.params 0x1000#32 3#32 := by decide

/-- Not admitted by one byte; the last index inside and the first outside. -/
theorem witness_GetbitReturnsTheAddressedBit :
    (1#32 : Word) ≠ 0#32 ∧ ¬ Admitted three.params 0xFFFFFFFF#32 2#32 ∧ Admitted three.params 0x1000#32 3#32 ∧
    8 * (3#32 : Word).toNat ≤ (24#32 : Word).toNat ∧ (23#32 : Word).toNat < 8 * (3#32 : Word).toNat := by decide

theorem witness_GetbitwWrapsTheIndex :
    (1#32 : Word) ≠ 0#32 ∧ ¬ Admitted three.params 0xFFFFFFFF#32 2#32 ∧ Admitted three.params 0x1000#32 0#32 ∧
    (0#32 : Word).toNat = 0 ∧ Admitted three.params 0x1000#32 1#32 ∧ 0 < (1#32 : Word).toNat := by decide

/-- Every row of the table, and the boundaries of its clauses. -/
theorem witness_MutatorsChangeOneBitOfOneByte (buf len bit val : Word) :
    (Instr.flipbit buf len bit, Packet.mk 0x15#32 buf len bit 0#32, fun b : Bool => !b) ∈
      [(Instr.setbit buf len bit, Packet.mk 0x12#32 buf len bit 0#32, fun _ => true),
       (.setbitv buf len bit val, ⟨0x13#32, buf, len, bit, val⟩, fun _ => decide (val ≠ 0#32)),
       (.clearbit buf len bit, ⟨0x14#32, buf, len, bit, 0#32⟩, fun _ => false),
       (.flipbit buf len bit, ⟨0x15#32, buf, len, bit, 0#32⟩, fun b => !b)] ∧
    ¬ Admitted three.params 0xFFFFFFFF#32 2#32 ∧ Admitted three.params 0x1000#32 3#32 ∧
    8 * (3#32 : Word).toNat ≤ (24#32 : Word).toNat ∧ (23#32 : Word).toNat < 8 * (3#32 : Word).toNat := by
  refine ⟨by simp, by decide⟩

theorem witness_BitCommandsActOnTheBlobValue :
    Admitted three.params 0x1000#32 3#32 ∧ (23#32 : Word).toNat < 8 * (3#32 : Word).toNat ∧
    (7 < 8 * (3#32 : Word).toNat ∧ 7 ≠ (23#32 : Word).toNat) := by decide

theorem witness_ParityIsPopulationCountModTwo :
    exec (.parityW32 7#32) three = .next (three.deliver ⟨0x00#8, 1#64⟩) ∧
    exec (.popcountW32 7#32) three = .next (three.deliver ⟨0x00#8, 3#64⟩) ∧
    exec (.parityW64 0x8000000000000000#64) three = .next (three.deliver ⟨0x00#8, 1#64⟩) ∧
    exec (.popcountW64 0x8000000000000000#64) three = .next (three.deliver ⟨0x00#8, 1#64⟩) ∧
    (three.deliver ⟨0x00#8, 1#64⟩).response = some ⟨0x00#8, 1#64⟩ := by
  and_intros <;> first | decide +kernel | exact is_next (by decide +kernel)

/-- Where the clauses meet: an admitted length that G32 takes and one it does not, amounts -1 and 0. -/
theorem witness_BlobShiftsMoveEveryBit (buf len c : Word) :
    (Instr.rshiftG32 buf len c, (0x331#32 : Word), false) ∈
      [(Instr.lshift buf len c, 0x30#32, true), (.lshiftG1 buf len c, 0x130#32, true),
       (.lshiftG8 buf len c, 0x230#32, true), (.lshiftG32 buf len c, 0x330#32, true),
       (.rshift buf len c, 0x31#32, false), (.rshiftG1 buf len c, 0x131#32, false),
       (.rshiftG8 buf len c, 0x231#32, false), (.rshiftG32 buf len c, 0x331#32, false)] ∧
    ¬ Admitted three.params 0xFFFFFFFF#32 2#32 ∧ Admitted three.params 0x1000#32 3#32 ∧
    Admitted three.params 0x1000#32 4#32 ∧ (0x331#32 : Word).extractLsb' 8 2 = 3#2 ∧
    (0x231#32 : Word).extractLsb' 8 2 ≠ 3#2 ∧ (3#32 : Word).toNat % 4 ≠ 0 ∧ (4#32 : Word).toNat % 4 = 0 ∧
    (0xFFFFFFFF#32 : Word).toInt < 0 ∧ 0 ≤ (0#32 : Word).toInt ∧ 31 < 8 * (4#32 : Word).toNat := by
  refine ⟨by simp, by decide⟩

theorem witness_ValueShiftsMoveEveryBit (x : DWord) (z c : Word) :
    (Instr.lshiftW32 z c, Packet.mk 0x34#32 z 0#32 c 0#32, 32, z.getLsbD, true) ∈
      [(Instr.lshiftW32 z c, Packet.mk 0x34#32 z 0#32 c 0#32, 32, z.getLsbD, true),
       (.rshiftW32 z c, ⟨0x35#32, z, 0#32, c, 0#32⟩, 32, z.getLsbD, false),
       (.lshiftW64 x c, ⟨0x36#32, x.extractLsb' 0 32, x.extractLsb' 32 32, c, 0#32⟩, 64, x.getLsbD, true),
       (.rshiftW64 x c, ⟨0x37#32, x.extractLsb' 0 32, x.extractLsb' 32 32, c, 0#32⟩, 64, x.getLsbD, false)] ∧
    (0xFFFFFFFF#32 : Word).toInt < 0 ∧ 0 ≤ (0#32 : Word).toInt := by
  refine ⟨by simp, by decide⟩

theorem witness_ShiftsCompose : (0xA5 < 2 ^ 8) ∧ 8 ≤ 8 := by decide

theorem witness_BlobRotatesMoveEveryBit (buf len c : Word) :
    (Instr.rrotG32 buf len c, (0x341#32 : Word), false) ∈
      [(Instr.lrot buf len c, 0x40#32, true), (.lrotG1 buf len c, 0x140#32, true),
       (.lrotG8 buf len c, 0x240#32, true), (.lrotG32 buf len c, 0x340#32, true),
       (.rrot buf len c, 0x41#32, false), (.rrotG1 buf len c, 0x141#32, false),
       (.rrotG8 buf len c, 0x241#32, false), (.rrotG32 buf len c, 0x341#32, false)] ∧
    ¬ Admitted three.params 0xFFFFFFFF#32 2#32 ∧ Admitted three.params 0x1000#32 3#32 ∧
    (0x341#32 : Word).extractLsb' 8 2 = 3#2 ∧ (3#32 : Word).toNat % 4 ≠ 0 ∧ Admitted three.params 0x1000#32 0#32 ∧
    (0#32 : Word).toNat = 0 ∧ Admitted three.params 0x1000#32 4#32 ∧ (4#32 : Word).toNat % 4 = 0 ∧
    0 < (4#32 : Word).toNat ∧ 31 < 8 * (4#32 : Word).toNat := by
  refine ⟨by simp, by decide⟩

theorem witness_ValueRotatesMoveEveryBit (x : DWord) (z c : Word) :
    (Instr.lrotW32 z c, Packet.mk 0x44#32 z 0#32 c 0#32, 32, z.getLsbD, true) ∈
      [(Instr.lrotW32 z c, Packet.mk 0x44#32 z 0#32 c 0#32, 32, z.getLsbD, true),
       (.rrotW32 z c, ⟨0x45#32, z, 0#32, c, 0#32⟩, 32, z.getLsbD, false),
       (.lrotW64 x c, ⟨0x46#32, x.extractLsb' 0 32, x.extractLsb' 32 32, c, 0#32⟩, 64, x.getLsbD, true),
       (.rrotW64 x c, ⟨0x47#32, x.extractLsb' 0 32, x.extractLsb' 32 32, c, 0#32⟩, 64, x.getLsbD, false)] := by
  simp

theorem witness_RotatesUndoEachOther :
    Admitted three.params 0x1000#32 3#32 ∧
    exec (.lrot 0x1000#32 3#32 9#32) three = .next ((withBlob [2, 0, 1]).deliver ⟨0x00#8, 0#64⟩) ∧
    exec (.rrot 0x1000#32 3#32 9#32) ((withBlob [2, 0, 1]).deliver ⟨0x00#8, 0#64⟩) =
      .next (three.deliver ⟨0x00#8, 0#64⟩) ∧
    exec (.rrot 0x1000#32 3#32 9#32) (withBlob [2, 0, 1]) = .next (three.deliver ⟨0x00#8, 0#64⟩) ∧
    exec (.lrot 0x1000#32 3#32 9#32) (three.deliver ⟨0x00#8, 0#64⟩) =
      .next ((withBlob [2, 0, 1]).deliver ⟨0x00#8, 0#64⟩) := by
  and_intros <;> first | decide | exact is_next (by decide)

theorem witness_RotatesKeepTheNumberOfSetBits :
    exec (.lrot 0x1000#32 3#32 9#32) three = .next ((withBlob [2, 0, 1]).deliver ⟨0x00#8, 0#64⟩) ∧
    Instr.lrot 0x1000#32 3#32 9#32 ∈ [Instr.lrot 0x1000#32 3#32 9#32, .lrotG1 0x1000#32 3#32 9#32] := by
  and_intros <;> first | decide | exact is_next (by decide)

/-- Counts 1, 32 and `8 * len` at the inner edges, 0, 33 and `8 * len + 1` at the outer. -/
theorem witness_BlobWindowsExtractCircularly (buf len start count : Word) :
    (Instr.windowG32 buf len start count, (0x350#32 : Word)) ∈
      [(Instr.window buf len start count, 0x50#32), (.windowG8 buf len start count, 0x250#32),
       (.windowG32 buf len start count, 0x350#32)] ∧
    ¬ Admitted three.params 0xFFFFFFFF#32 2#32 ∧ Admitted three.params 0x1000#32 0#32 ∧
    Admitted three.params 0x1000#32 3#32 ∧ 0 < (3#32 : Word).toNat ∧ (3#32 : Word).toNat % 4 ≠ 0 ∧
    Admitted three.params 0x1000#32 4#32 ∧ (4#32 : Word).toNat % 4 = 0 ∧ (0#32 : Word).toNat < 1 ∧
    32 < (33#32 : Word).toNat ∧ 8 * (3#32 : Word).toNat < (25#32 : Word).toNat ∧ 1 ≤ (1#32 : Word).toNat ∧
    (32#32 : Word).toNat ≤ 32 ∧ (32#32 : Word).toNat ≤ 8 * (4#32 : Word).toNat := by
  refine ⟨by simp, by decide⟩

theorem witness_ValueWindowsExtractCircularly (x : DWord) (z start count : Word) :
    (Instr.windowW64 x start count, Packet.mk 0x56#32 (x.extractLsb' 0 32) (x.extractLsb' 32 32) start count, 64,
      x.getLsbD) ∈
      [(Instr.windowW32 z start count, Packet.mk 0x54#32 z 0#32 start count, 32, z.getLsbD),
       (.windowW64 x start count, ⟨0x56#32, x.extractLsb' 0 32, x.extractLsb' 32 32, start, count⟩, 64,
         x.getLsbD)] ∧
    (0#32 : Word).toNat < 1 ∧ 32 < (33#32 : Word).toNat ∧ 1 ≤ (1#32 : Word).toNat ∧ (32#32 : Word).toNat ≤ 32 := by
  refine ⟨by simp, by decide⟩

theorem witness_WindowCollectsWrappedBits :
    exec (.window 0x1000#32 3#32 23#32 2#32) three = .next (three.deliver ⟨0x00#8, 0#64⟩) ∧
    (three.deliver ⟨0x00#8, 0#64⟩).response = some ⟨0x00#8, 0#64⟩ ∧
    1 < (2#32 : Word).toNat ∧ (24#32 : Word).toNat = (23#32 : Word).toNat + 1 ∧
    (23#32 : Word).toNat < 2 ^ 31 := by
  and_intros <;> first | decide | exact is_next (by decide)

theorem witness_GranularityIsNotObservable : (4#32 : Word).toNat % 4 = 0 := by decide

theorem witness_OneBitShiftStrategyAgrees :
    Admitted three.params 0x1000#32 3#32 ∧ 0 ≤ (0#32 : Word).toInt ∧ 0 ≤ (24#32 : Word).toInt := by decide

theorem witness_ByteShiftStrategyAgrees :
    Admitted three.params 0x1000#32 3#32 ∧ 0 ≤ (9#32 : Word).toInt := by decide

theorem witness_WordShiftStrategyAgrees :
    Admitted four.params 0x1000#32 4#32 ∧ (4#32 : Word).toNat % 4 = 0 ∧ 0 ≤ (9#32 : Word).toInt := by decide

theorem witness_OneBitRotateStrategyAgrees :
    Admitted three.params 0x1000#32 1#32 ∧ 0 < (1#32 : Word).toNat := by decide

theorem witness_ByteRotateStrategyAgrees :
    Admitted three.params 0x1000#32 3#32 ∧ 0 < (3#32 : Word).toNat := by decide

theorem witness_WordRotateStrategyAgrees :
    Admitted four.params 0x1000#32 4#32 ∧ 0 < (4#32 : Word).toNat ∧ (4#32 : Word).toNat % 4 = 0 := by decide

theorem witness_WindowStrategiesAgree :
    Admitted four.params 0x1000#32 4#32 ∧ 0 < (4#32 : Word).toNat ∧ 1 ≤ (32#32 : Word).toNat ∧
    (32#32 : Word).toNat ≤ 32 ∧ (32#32 : Word).toNat ≤ 8 * (4#32 : Word).toNat ∧
    (4#32 : Word).toNat % 4 = 0 := by decide

theorem witness_FourByteBlobActsAsItsValue :
    Admitted four.params 0x1000#32 4#32 ∧
    (∀ k, k < 4 → four.mem.read ((0x1000#32 : Word).toNat + k) = (0x12345678#32 : Word).extractLsb' (8 * k) 8) ∧
    (0xFFFFFFFF#32 : Word).toInt < 0 ∧ 0 ≤ (0#32 : Word).toInt ∧ 1 ≤ (1#32 : Word).toNat ∧
    (32#32 : Word).toNat ≤ 32 := by decide

theorem witness_EightByteBlobActsAsItsValue :
    Admitted three.params 0x1000#32 8#32 ∧
    (∀ k, k < 8 → (withBlob [0xEF, 0xCD, 0xAB, 0x89, 0x67, 0x45, 0x23, 0x01]).mem.read
      ((0x1000#32 : Word).toNat + k) = (0x0123456789ABCDEF#64 : DWord).extractLsb' (8 * k) 8) ∧
    (0xFFFFFFFF#32 : Word).toInt < 0 ∧ 0 ≤ (0#32 : Word).toInt ∧ 1 ≤ (1#32 : Word).toNat ∧
    (32#32 : Word).toNat ≤ 32 := by decide

/-- The top byte of memory with nothing in flight, and the two bytes beside the blob of a command in flight. -/
theorem witness_HostReadsBackWhatItWrote :
    0xFFFFFFFF < 2 ^ 32 ∧ three.claims 0xFFFFFFFF = false ∧
    ({ three with moves := [.store 0xFFFFFFFF 5#8, .load 0xFFFFFFFF] }).moves =
      .store 0xFFFFFFFF 5#8 :: .load 0xFFFFFFFF :: [] ∧
    (three.inFlightNow setbitPacket).claims 0xFFF = false ∧ (three.inFlightNow setbitPacket).claims 0x1003 = false ∧
    (three.inFlightNow setbitPacket).claims 0x1000 = true ∧ (three.inFlightNow setbitPacket).claims 0x1002 = true := by
  decide

theorem witness_HostAccessOutsideTheAddressSpaceStops :
    2 ^ 32 ≤ 4294967296 ∧ ({ three with moves := [.store 4294967296 5#8] }).moves = .store 4294967296 5#8 :: [] ∧
    ({ three with moves := [.load 4294967296] }).moves = .load 4294967296 :: [] := by decide

/-- The host writes the byte beside the blob in flight. -/
theorem witness_ExclusiveUseNeverRaces :
    ({ three.inFlightNow setbitPacket with moves := [.store 0x1003 5#8] }).exclusive = true ∧
    step { three.inFlightNow setbitPacket with moves := [.store 0x1003 5#8] } =
      .next (after { three.inFlightNow setbitPacket with moves := [.store 0x1003 5#8] }) ∧
    (∀ rest, ({ three.inFlightNow setbitPacket with moves := [.store 0x1003 5#8] }).moves ≠ .reset :: rest) := by
  refine ⟨by decide, is_next (by decide), fun rest h => by simp at h⟩

/-- The hypotheses the three clauses share, of every state that `setbit` is in flight in, whatever its moves and races;
then those of each clause, at the first and the last byte of the blob. -/
theorem witness_RacedCommandStillCompletes :
    let s : State := three.inFlightNow setbitPacket
    (∀ ms raced, ({ s with moves := ms, raced := raced }).inFlight = some setbitPacket) ∧
    decode setbitPacket = .ok (.setbit 0x1000#32 3#32 8#32) ∧
    blobOf (.setbit 0x1000#32 3#32 8#32) = some (0x1000, 3) ∧
    exec (.setbit 0x1000#32 3#32 8#32) { s with raced := true } = .next (after s) ∧
    exec (.setbit 0x1000#32 3#32 8#32) { s with moves := [.store 0x1000 5#8] } =
      .next { after s with moves := [.store 0x1000 5#8] } ∧
    exec (.setbit 0x1000#32 3#32 8#32) { s with moves := [.load 0x1002] } =
      .next { after s with moves := [.load 0x1002] } ∧
    (after s).response = some ⟨0x00#8, 0#64⟩ ∧ (0x1000 ≤ 0x1000 ∧ 0x1002 < 0x1000 + 3) ∧
    HostWaits { s with raced := true } :=
  ⟨fun _ _ => rfl, by decide, by decide, is_next (by decide), is_next (by decide), is_next (by decide), by decide,
    by decide, .inl rfl⟩

/-- A fault is pending, and the host consumes it, or a reset comes first. -/
theorem witness_GoneWrongIsKept :
    let s : State := { three with response := some ⟨0x04#8, 0#64⟩ }
    s.inv = true ∧ s.goneWrong = true ∧
    ({ s with moves := [.await] }).inv = true ∧ ({ s with moves := [.await] }).goneWrong = true ∧
    step { s with moves := [.await] } = .next { three with record := [⟨0x04#8, 0#64⟩] } ∧
    ({ s with moves := [.reset] }).inv = true ∧ ({ s with moves := [.reset] }).goneWrong = true ∧
    step { s with moves := [.reset] } = .next { three with record := [⟨0x04#8, 0#64⟩] } :=
  ⟨by decide, by decide, by decide, by decide, is_next (by decide), by decide, by decide, is_next (by decide)⟩

end Sys2Proof.Tests
end

/-! ## The scope statements: reset, the unit's step, what every step keeps -/

namespace Sys2Proof.Machine

/-! ### What keeps the background of blob memory -/

@[simp] theorem Memory.scramble_background (m : Memory) (blob : Nat × Nat) (d : Nat) :
    (m.scramble blob d).background = m.background := Memory.fill_background _ _ _ _

@[simp] theorem resetUnit_background (s : State) : (resetUnit s).mem.background = s.mem.background := by
  obtain h | ⟨_, _, _, h⟩ := resetUnit_cases s <;> simp [h]

/-- A blob rotate writes one run of bytes, which is empty at `len = 0` (R170, R172). -/
theorem rotateBlob_fills (g : Gran) (f : Nat → Nat → Nat → Nat) (buf len c : Word) (s : State) :
    ∃ bytes k, rotateBlob g f buf len c s =
      guarded (rotChecks s.params g buf len) s (complete (s.withMem (s.mem.fill buf.toNat bytes k)) 0#64) := by
  unfold rotateBlob
  split
  · exact ⟨fun _ => 0#8, 0, rfl⟩
  · exact ⟨_, len.toNat, rfl⟩

/-- Behind its checks, every command fills one run of bytes: the blob of a shift or a rotate, the one byte of a
BitAddress mutator, no byte for the commands that only read (R46). -/
theorem exec_fills (i : Instr) (s : State) :
    ∃ a bytes k r, exec i s =
      guarded (checksOf s.params i) s (complete (s.withMem (s.mem.fill a bytes k)) r) := by
  cases i
  case setbit | setbitv | clearbit | flipbit => exact ⟨_, fun _ => _, 1, _, rfl⟩
  case lshift | lshiftG1 | lshiftG8 | lshiftG32 | rshift | rshiftG1 | rshiftG8 | rshiftG32 => exact ⟨_, _, _, _, rfl⟩
  case lrot | lrotG1 | lrotG8 | lrotG32 | rrot | rrotG1 | rrotG8 | rrotG32 =>
    obtain ⟨bytes, k, h⟩ := rotateBlob_fills _ _ _ _ _ s
    exact ⟨_, bytes, k, _, h⟩
  all_goals exact ⟨0, fun _ => 0#8, 0, _, rfl⟩

/-! ### What every step keeps -/

/-- `t` has the parameters and the initial memory of `s`, and the responses recorded in `s` begin its record. -/
structure Keeps (s t : State) : Prop where
  params : t.params = s.params
  background : t.mem.background = s.mem.background
  record : ∃ new, t.record = s.record ++ new

theorem keeps_of_record_eq {s t : State} (hp : t.params = s.params) (hb : t.mem.background = s.mem.background)
    (hr : t.record = s.record) : Keeps s t := ⟨hp, hb, [], by rw [hr, List.append_nil]⟩

theorem Keeps.refl (s : State) : Keeps s s := keeps_of_record_eq rfl rfl rfl

theorem Keeps.trans {s t u : State} (h : Keeps s t) (h' : Keeps t u) : Keeps s u := by
  obtain ⟨hp, hb, new, hr⟩ := h
  obtain ⟨hp', hb', new', hr'⟩ := h'
  exact ⟨hp'.trans hp, hb'.trans hb, new ++ new', by rw [hr', hr, List.append_assoc]⟩

theorem keeps_moves (s : State) (rest : List HostMove) : Keeps s { s with moves := rest } :=
  keeps_of_record_eq rfl rfl rfl

theorem keeps_deliver (s : State) (r : Response) : Keeps s (s.deliver r) := keeps_of_record_eq rfl rfl rfl

theorem keeps_withMem {s : State} {m : Memory} (h : m.background = s.mem.background) : Keeps s (s.withMem m) :=
  keeps_of_record_eq rfl h rfl

theorem keeps_consume (s : State) : Keeps s s.consume :=
  ⟨s.consume_params, by simp, _, s.consume_record⟩

theorem keeps_accept (s : State) (p : Packet) : Keeps s (s.accept p) :=
  ⟨s.accept_params p, by simp, _, s.accept_record p⟩

theorem keeps_resetUnit (s : State) : Keeps s (resetUnit s) :=
  ⟨resetUnit_params s, resetUnit_background s, _, resetUnit_record s⟩

theorem keeps_raceOutcome (blob : Nat × Nat) (t : State) : Keeps t (raceOutcome blob t) :=
  keeps_of_record_eq rfl (Memory.scramble_background _ _ _) rfl

theorem keeps_of_raise {f : CmdFault} {s t : State} (h : raise f s = .next t) : Keeps s t := by
  rw [raise_eq, Host.Outcome.next.injEq] at h
  exact h ▸ keeps_deliver s _

theorem keeps_of_exec {i : Instr} {s t : State} (h : exec i s = .next t) : Keeps s t := by
  obtain ⟨a, bytes, k, r, hfill⟩ := exec_fills i s
  rw [hfill] at h
  obtain ⟨f, -, hfault⟩ | ⟨-, hbody⟩ :=
    guarded_cases (checksOf s.params i) s (complete (s.withMem (s.mem.fill a bytes k)) r)
  · exact keeps_of_raise (hfault ▸ h)
  · rw [hbody, complete_eq, Host.Outcome.next.injEq] at h
    exact h ▸ (keeps_withMem (Memory.fill_background _ _ _ _)).trans (keeps_deliver _ _)

theorem keeps_of_settleRace {i : Instr} {s t : State} (h : settleRace s (exec i s) = .next t) : Keeps s t := by
  obtain hown | ⟨blob, u, -, -, hexec, hrace⟩ := settleRace_cases s (exec i s)
  · exact keeps_of_exec (hown ▸ h)
  · rw [hrace, Host.Outcome.next.injEq] at h
    exact h ▸ (keeps_of_exec hexec).trans (keeps_raceOutcome blob u)

theorem keeps_of_unitTurn {s t : State} (h : unitTurn s = .next t) : Keeps s t := by
  obtain ⟨-, hidle⟩ | ⟨p, i, -, -, hlegal⟩ | ⟨p, e, -, -, hillegal⟩ := unitTurn_cases s
  · rw [hidle, Host.Outcome.next.injEq] at h
    exact h ▸ Keeps.refl s
  · exact keeps_of_settleRace (hlegal ▸ h)
  · exact keeps_of_raise (hillegal ▸ h)

theorem keeps_of_hostStore {a : Nat} {b : Byte} {s t : State} (h : hostStore a b s = .next t) : Keeps s t := by
  obtain ⟨-, hstore⟩ | ⟨-, hstop⟩ := hostStore_cases a b s
  · rw [hstore, Host.Outcome.next.injEq] at h
    exact h ▸ keeps_of_record_eq rfl (Memory.write_background _ _ _) rfl
  · simp [hstop] at h

theorem keeps_of_hostLoad {a : Nat} {s t : State} (h : hostLoad a s = .next t) : Keeps s t := by
  obtain ⟨-, -, hload⟩ | ⟨-, -, hload⟩ | ⟨-, hstop⟩ := hostLoad_cases a s
  · rw [hload, Host.Outcome.next.injEq] at h
    exact h ▸ keeps_of_record_eq rfl rfl rfl
  · rw [hload, Host.Outcome.next.injEq] at h
    exact h ▸ keeps_of_record_eq rfl rfl rfl
  · simp [hstop] at h

theorem keeps_of_step {s t : State} (h : step s = .next t) : Keeps s t := by
  obtain ⟨hturn, -⟩ | ⟨p, rest, -, -, hissue⟩ | ⟨rest, -, -, hawait⟩ | ⟨a, b, rest, -, hstore⟩ |
    ⟨a, rest, -, hload⟩ | ⟨rest, -, hreset⟩ := step_cases s
  · exact keeps_of_unitTurn (hturn ▸ h)
  · rw [hissue, Host.Outcome.next.injEq] at h
    exact h ▸ (keeps_moves s rest).trans (keeps_accept _ p)
  · rw [hawait, Host.Outcome.next.injEq] at h
    exact h ▸ (keeps_moves s rest).trans (keeps_consume _)
  · exact (keeps_moves s rest).trans (keeps_of_hostStore (hstore ▸ h))
  · exact (keeps_moves s rest).trans (keeps_of_hostLoad (hload ▸ h))
  · rw [hreset, Host.Outcome.next.injEq] at h
    exact h ▸ (keeps_moves s rest).trans (keeps_resetUnit _)

/-- Settles O16: each move of the host and the unit's turn keep the three, by the cases of the step. -/
theorem stepKeepsParametersAndRecord : Obligations.StepKeepsParametersAndRecord := by
  intro s t h
  have hkeeps : Keeps s t := keeps_of_step h
  exact ⟨hkeeps.params, hkeeps.background, hkeeps.record⟩

/-! ### The unit's step -/

/-- While a command is in flight, a host that has no move, offers a packet or waits leaves the step to the unit (R26). -/
theorem step_eq_unitTurn {s : State} {p : Packet} (hf : s.inFlight = some p) (hw : HostWaits s) :
    step s = unitTurn s := by
  obtain hm | ⟨q, rest, hm⟩ | ⟨rest, hm⟩ := hw <;> simp [step, hm, hostMove, hf]

/-- The unit's turn on a legal packet is its command, the race of R275 included (R76). -/
theorem unitTurn_of_legal {s : State} {p : Packet} {i : Instr} (hf : s.inFlight = some p) (hd : decode p = .ok i) :
    unitTurn s = settleRace s (exec i s) := by
  simp [unitTurn, hf, runPacket, hd]

/-- Settles O7: the host leaves the step to the unit, whose turn is the command when nothing raced with it. -/
theorem stepRunsTheDecodedCommand : Obligations.StepRunsTheDecodedCommand := by
  intro s p i hf hd hr hw
  calc step s = unitTurn s := step_eq_unitTurn hf hw
    _ = settleRace s (exec i s) := unitTurn_of_legal hf hd
    _ = exec i s := settleRace_not_raced hr _

/-! ### Reset -/

/-- The defaults of R7 lie in the ranges of the parameters. -/
theorem Params.standard_legal : Params.standard.legal = true := by decide

/-- Settles O12: field by field from the reset state, the ranges by `Params.standard_legal`. -/
theorem resetStateIsIdle : Obligations.ResetStateIsIdle :=
  ⟨rfl, rfl, rfl, rfl, rfl, Params.standard_legal, rfl⟩

end Sys2Proof.Machine

/-! ## State: what a command does to memory, the channels, the invariant, the host's programs -/

namespace Sys2Proof.Machine

/-! ### The effect of a command on its blob -/

/-- What a command that passes its checks does: it writes `count` bytes from `start` on and answers `result`. -/
structure Effect where
  start : Nat
  bytes : Nat → Byte
  count : Nat
  result : DWord

/-- The memory an effect leaves. -/
def Effect.on (e : Effect) (m : Memory) : Memory := m.fill e.start e.bytes e.count

/-- The state after a command that completes with this effect. -/
def Effect.after (e : Effect) (s : State) : State := (s.withMem (e.on s.mem)).deliver ⟨statusDone, e.result⟩

@[simp] theorem Effect.after_mem (e : Effect) (s : State) : (e.after s).mem = e.on s.mem := rfl

@[simp] theorem Effect.after_response (e : Effect) (s : State) :
    (e.after s).response = some ⟨statusDone, e.result⟩ := rfl

/-- The bytes an effect writes are bytes of the blob; without a blob it writes none. -/
def Effect.Within (blob : Option (Nat × Nat)) (e : Effect) : Prop :=
  e.count = 0 ∨ ∃ buf len, blob = some (buf, len) ∧ buf ≤ e.start ∧ e.start + e.count ≤ buf + len

/-- Two memories agree on the blob, if there is one. -/
def SameOn (blob : Option (Nat × Nat)) (m m' : Memory) : Prop :=
  ∀ buf len, blob = some (buf, len) → SameInside buf len m m'

/-- An effect computed from memory stays in the blob: it writes nothing else and depends on nothing else. -/
structure StaysIn (blob : Option (Nat × Nat)) (effect : Memory → Effect) : Prop where
  writes : ∀ m, (effect m).Within blob
  reads : ∀ m m', SameOn blob m m' → effect m' = effect m

/-- A meaning is an effect behind checks, and the effect stays in the blob when the checks find nothing. -/
def Confined (blob : Option (Nat × Nat)) (checks : Params → Option CmdFault) (meaning : State → Answer) : Prop :=
  ∃ effect : Memory → Effect,
    (∀ s, meaning s = guarded (checks s.params) s (.next ((effect s.mem).after s))) ∧
    ∀ p, checks p = none → StaysIn blob effect

/-- The effect of a command that only reads (R46). -/
def readEffect (result : Memory → DWord) (m : Memory) : Effect := ⟨0, fun _ => 0#8, 0, result m⟩

/-- The effect of a BitAddress mutator: one byte read, changed and written (R46, R100). -/
def byteEffect (a : Nat) (f : Byte → Byte) (m : Memory) : Effect := ⟨a, fun _ => f (m.read a), 1, 0#64⟩

/-- The effect of a blob shift or rotate: the blob gets the value `f` of its old one (R140, R170). -/
def blobEffect (buf len : Nat) (f : Nat → Nat) (m : Memory) : Effect :=
  ⟨buf, fun k => BitVec.ofNat 8 (f (m.blobValue buf len) >>> (8 * k)), len, 0#64⟩

theorem next_readEffect (result : Memory → DWord) (s : State) :
    .next ((readEffect result s.mem).after s) = complete s (result s.mem) := rfl

theorem next_byteEffect (buf : Word) (i : Nat) (f : Byte → Byte) (s : State) :
    .next ((byteEffect (buf.toNat + i / 8) f s.mem).after s) = updateByte buf i f s := rfl

theorem next_blobEffect (buf len : Nat) (f : Nat → Nat) (s : State) :
    .next ((blobEffect buf len f s.mem).after s) =
      complete (s.withMem (s.mem.setBlob buf len (f (s.mem.blobValue buf len)))) 0#64 := rfl

theorem staysIn_readEffect {blob : Option (Nat × Nat)} {result : Memory → DWord}
    (h : ∀ m m', SameOn blob m m' → result m' = result m) : StaysIn blob (readEffect result) where
  writes _ := .inl rfl
  reads m m' hs := by rw [readEffect, h m m' hs, readEffect]

theorem staysIn_byteEffect {buf len a : Nat} (f : Byte → Byte) (h1 : buf ≤ a) (h2 : a < buf + len) :
    StaysIn (some (buf, len)) (byteEffect a f) where
  writes _ := .inr ⟨buf, len, rfl, h1, h2⟩
  reads m m' hs := by rw [byteEffect, hs buf len rfl a h1 h2, byteEffect]

theorem staysIn_blobEffect (buf len : Nat) (f : Nat → Nat) :
    StaysIn (some (buf, len)) (blobEffect buf len f) where
  writes _ := .inr ⟨buf, len, rfl, le_rfl, le_rfl⟩
  reads m m' hs := by rw [blobEffect, Memory.blobValue_congr (hs buf len rfl), blobEffect]

/-! ### Every command is confined to its blob -/

/-- A value form looks at no memory (R74). -/
theorem confined_value (checks : Params → Option CmdFault) (r : DWord) :
    Confined none checks (fun s => guarded (checks s.params) s (complete s r)) :=
  ⟨readEffect fun _ => r, fun _ => rfl, fun _ _ => staysIn_readEffect fun _ _ _ => rfl⟩

theorem confined_readBit {buf : Word} {len i : Nat} {checks : Params → Option CmdFault}
    (h : ∀ p, checks p = none → i < 8 * len) :
    Confined (some (buf.toNat, len)) checks (fun s => guarded (checks s.params) s (readBit buf i s)) := by
  refine ⟨readEffect fun m => resultOf (m.bitAt buf.toNat i).toNat, fun s => ?_, fun p hp => ?_⟩
  · beta_reduce
    rw [readBit_eq, next_readEffect, complete_eq]
  · have hi := h p hp
    refine staysIn_readEffect fun m m' hs => ?_
    rw [Memory.bitAt_congr (hs buf.toNat len rfl _ (by omega) (by omega))]

theorem confined_updateByte {buf : Word} {len i : Nat} (f : Byte → Byte) {checks : Params → Option CmdFault}
    (h : ∀ p, checks p = none → i < 8 * len) :
    Confined (some (buf.toNat, len)) checks (fun s => guarded (checks s.params) s (updateByte buf i f s)) := by
  refine ⟨byteEffect (buf.toNat + i / 8) f, fun s => by rw [next_byteEffect], fun p hp => ?_⟩
  have hi := h p hp
  exact staysIn_byteEffect f (by omega) (by omega)

theorem confined_shiftBlob (g : Gran) (f : Nat → Nat → Nat → Nat) (buf len c : Word) :
    Confined (some (buf.toNat, len.toNat)) (shiftChecks · g buf len c) (shiftBlob g f buf len c) :=
  ⟨blobEffect buf.toNat len.toNat fun V => f V (8 * len.toNat) (amount c).toNat, fun _ => rfl,
    fun _ _ => staysIn_blobEffect _ _ _⟩

/-- At `len = 0` a rotate writes the empty run of bytes (R172). -/
theorem confined_rotateBlob (g : Gran) (f : Nat → Nat → Nat → Nat) (buf len c : Word) :
    Confined (some (buf.toNat, len.toNat)) (rotChecks · g buf len) (rotateBlob g f buf len c) := by
  refine ⟨blobEffect buf.toNat len.toNat fun V => f V (8 * len.toNat) (residue (amount c) (8 * len.toNat)),
    fun s => ?_, fun _ _ => staysIn_blobEffect _ _ _⟩
  rw [next_blobEffect, rotateBlob]
  split
  · next h => rw [h, Memory.setBlob, Memory.fill_zero, State.withMem_self]
  · rfl

theorem confined_windowBlob (g : Gran) (buf len start count : Word) :
    Confined (some (buf.toNat, len.toNat)) (windowChecks · g buf len count) (windowBlob g buf len start count) := by
  refine ⟨readEffect fun m =>
    resultOf (win (m.blobValue buf.toNat len.toNat) (8 * len.toNat) start.toNat count.toNat),
    fun _ => rfl, fun _ _ => staysIn_readEffect fun m m' hs => ?_⟩
  rw [Memory.blobValue_congr (hs buf.toNat len.toNat rfl)]

/-- Every command reads and writes its blob only, and what it does depends on nothing but its operands, the parameters
and the bytes of the blob (R20, R21, R44). -/
theorem exec_confined (i : Instr) : Confined (blobOf i) (checksOf · i) (exec i) := by
  have hbit {p : Params} {buf len bit : Word} (h : bitChecks p buf len bit = none) : bit.toNat < 8 * len.toNat :=
    ((bitChecks_eq_none p buf len bit).1 h).2
  cases i
  case getbit => exact confined_readBit fun _ h => hbit h
  case getbitw =>
    refine confined_readBit fun _ h => Nat.mod_lt _ ?_
    obtain ⟨-, hlen⟩ := (wrapChecks_eq_none _ _ _).1 h
    omega
  case setbit | setbitv | clearbit | flipbit => exact confined_updateByte _ fun _ h => hbit h
  case lshift | lshiftG1 | lshiftG8 | lshiftG32 | rshift | rshiftG1 | rshiftG8 | rshiftG32 =>
    exact confined_shiftBlob _ _ _ _ _
  case lrot | lrotG1 | lrotG8 | lrotG32 | rrot | rrotG1 | rrotG8 | rrotG32 => exact confined_rotateBlob _ _ _ _ _
  case window | windowG8 | windowG32 => exact confined_windowBlob _ _ _ _ _
  all_goals exact confined_value _ _

/-- A command whose checks find a fault ends with it. -/
theorem exec_of_fault {i : Instr} {s : State} {f : CmdFault} (h : checksOf s.params i = some f) :
    exec i s = .next (s.deliver ⟨faultCode f, 0#64⟩) := by
  obtain ⟨m, r, hexec⟩ := exec_guarded i s
  rw [hexec, h, guarded_some, raise_eq]

/-- A command whose checks find nothing completes with an effect that stays in its blob, the same effect in every state
with these parameters. -/
theorem exec_of_no_fault {i : Instr} {p : Params} (h : checksOf p i = none) :
    ∃ effect : Memory → Effect, StaysIn (blobOf i) effect ∧
      ∀ s, s.params = p → exec i s = .next ((effect s.mem).after s) := by
  obtain ⟨effect, hexec, hstays⟩ := exec_confined i
  exact ⟨effect, hstays p h, fun s hs => by simp [hexec s, hs, h]⟩

/-! ### What an effect does to memory -/

theorem Effect.on_eq_of_within_none {e : Effect} (h : e.Within none) (m : Memory) : e.on m = m := by
  obtain h0 | ⟨_, _, hb, -⟩ := h
  · rw [Effect.on, h0, Memory.fill_zero]
  · cases hb

theorem Effect.on_sameOutside {e : Effect} {buf len : Nat} (h : e.Within (some (buf, len))) (m : Memory) :
    SameOutside buf len m (e.on m) := by
  intro a ha
  rw [Effect.on, Memory.read_fill, if_neg]
  obtain h0 | ⟨_, _, hb, hlo, hhi⟩ := h
  · omega
  · cases hb
    omega

/-- The same run of bytes written to memories that agree on the blob. -/
theorem Effect.on_sameInside (e : Effect) {buf len : Nat} {m m' : Memory} (h : SameInside buf len m m') :
    SameInside buf len (e.on m) (e.on m') := by
  intro a h1 h2
  rw [Effect.on, Effect.on, Memory.read_fill, Memory.read_fill, h a h1 h2]

theorem Effect.on_wf {e : Effect} {blob : Option (Nat × Nat)} (h : e.Within blob)
    (hfit : ∀ buf len, blob = some (buf, len) → buf + len ≤ 2 ^ 32) {m : Memory} (hm : m.wf = true) :
    (e.on m).wf = true := by
  obtain h0 | ⟨buf, len, hb, -, hhi⟩ := h
  · rw [Effect.on, h0, Memory.fill_zero]
    exact hm
  · exact Memory.fill_wf hm _ (hhi.trans (hfit buf len hb))

/-! ### Rules about every command -/

theorem legal_of_fault (f : CmdFault) : Response.legal ⟨faultCode f, 0#64⟩ = true := by
  simp [Response.legal, (faultCode_range f).2]

theorem legal_of_done (r : DWord) : Response.legal ⟨statusDone, r⟩ = true := by
  simp [Response.legal, statusDone]

/-- Every command delivers one legal response and leaves memory in its canonical form. -/
theorem exec_delivers (i : Instr) (s : State) :
    ∃ m r, exec i s = .next ((s.withMem m).deliver r) ∧ r.legal = true ∧ (s.mem.wf = true → m.wf = true) := by
  cases hc : checksOf s.params i with
  | some f => exact ⟨s.mem, _, exec_of_fault hc, legal_of_fault f, id⟩
  | none =>
    obtain ⟨effect, hstays, hexec⟩ := exec_of_no_fault hc
    exact ⟨_, _, hexec s rfl, legal_of_done _,
      Effect.on_wf (hstays.writes s.mem) fun _ _ hb => checksOf_fits hc hb⟩

/-- Settles O17: `exec_delivers` without what it says of the canonical form. -/
theorem everyCommandEndsWithOneLegalResponse : Obligations.EveryCommandEndsWithOneLegalResponse := by
  intro i s
  obtain ⟨m, r, hexec, hlegal, -⟩ := exec_delivers i s
  exact ⟨m, r, hexec, hlegal⟩

/-- Settles O18: a fault writes nothing, and the effect of a command writes within its blob. -/
theorem commandWritesOnlyItsBlob : Obligations.CommandWritesOnlyItsBlob := by
  intro i s t h
  cases hc : checksOf s.params i with
  | some f =>
    rw [exec_of_fault hc, Host.Outcome.next.injEq] at h
    subst h
    exact ⟨fun _ _ _ _ _ => rfl, fun _ => rfl⟩
  | none =>
    obtain ⟨effect, hstays, hexec⟩ := exec_of_no_fault hc
    rw [hexec s rfl, Host.Outcome.next.injEq] at h
    subst h
    have hwithin := hstays.writes s.mem
    exact ⟨fun _ _ hb => Effect.on_sameOutside (hb ▸ hwithin) s.mem,
      fun hb => Effect.on_eq_of_within_none (hb ▸ hwithin) s.mem⟩

/-- What two runs of a command have in common when their parameters are the same: both end with the same fault and keep
their memories, or both complete with the effect computed from their memories. -/
theorem exec_twice {i : Instr} {s s' t t' : State} (hp : s'.params = s.params) (h : exec i s = .next t)
    (h' : exec i s' = .next t') :
    (t'.response = t.response ∧ t.mem = s.mem ∧ t'.mem = s'.mem) ∨
    ∃ effect, StaysIn (blobOf i) effect ∧ t = (effect s.mem).after s ∧ t' = (effect s'.mem).after s' := by
  cases hc : checksOf s.params i with
  | some f =>
    rw [exec_of_fault hc, Host.Outcome.next.injEq] at h
    rw [exec_of_fault (hp ▸ hc), Host.Outcome.next.injEq] at h'
    subst h h'
    exact .inl ⟨rfl, rfl, rfl⟩
  | none =>
    obtain ⟨effect, hstays, hexec⟩ := exec_of_no_fault hc
    rw [hexec s rfl, Host.Outcome.next.injEq] at h
    rw [hexec s' hp, Host.Outcome.next.injEq] at h'
    exact .inr ⟨effect, hstays, h.symm, h'.symm⟩

/-- Settles O19: memories that agree on the blob give the same effect. -/
theorem commandReadsOnlyItsBlob : Obligations.CommandReadsOnlyItsBlob := by
  intro i s s' t t' hp hsame h h'
  obtain ⟨hr, hm, hm'⟩ | ⟨effect, hstays, rfl, rfl⟩ := exec_twice hp h h'
  · rw [hm, hm']
    exact ⟨hr, hsame⟩
  · have heq : effect s'.mem = effect s.mem := hstays.reads s.mem s'.mem hsame
    rw [heq]
    exact ⟨rfl, fun buf len hb => Effect.on_sameInside _ (hsame buf len hb)⟩

/-- Settles O20: equal memories give the same effect. -/
theorem nothingSurvivesBetweenCommands : Obligations.NothingSurvivesBetweenCommands := by
  intro i s s' t t' hp hm h h'
  obtain ⟨hr, ht, ht'⟩ | ⟨effect, -, rfl, rfl⟩ := exec_twice hp h h'
  · exact ⟨hr, by rw [ht, ht', hm]⟩
  · simp [hm]

/-! ### The end of the command in flight -/

/-- The unit's turn ends the command in flight, legal or not, raced or not, with one legal response; of the rest of the
state only memory and the count of draws may change (R25, R26, R275). -/
theorem unitTurn_ends {s : State} {p : Packet} (hf : s.inFlight = some p) :
    ∃ m r d, unitTurn s = .next { (s.withMem m).deliver r with draws := d } ∧ r.legal = true ∧
      (s.mem.wf = true → m.wf = true) := by
  obtain ⟨hidle, -⟩ | ⟨_, i, -, -, hturn⟩ | ⟨_, _, -, -, hturn⟩ := unitTurn_cases s
  · simp [hf] at hidle
  · obtain ⟨m, r, hexec, hlegal, hwf⟩ := exec_delivers i s
    obtain hown | ⟨blob, t, -, hclaim, hrun, hrace⟩ := settleRace_cases s (exec i s)
    · exact ⟨m, r, s.draws, by rw [hturn, hown, hexec]; rfl, hlegal, hwf⟩
    · rw [hexec, Host.Outcome.next.injEq] at hrun
      subst hrun
      exact ⟨m.scramble blob s.draws, _, _, by rw [hturn, hrace]; rfl, legal_of_done _,
        fun h => Memory.fill_wf (hwf h) _ (State.claimed_fits hclaim)⟩
  · exact ⟨s.mem, _, s.draws, hturn, legal_of_fault _, id⟩

/-! ### The invariant -/

/-- The invariant of the state, part by part. -/
structure Sound (s : State) : Prop where
  mem : s.mem.wf = true
  channels : s.inFlight = none ∨ s.response = none
  received : ∀ r ∈ s.record ++ s.response.toList, r.legal = true
  raced : s.raced = true → s.inFlight.isSome = true

theorem State.inv_iff_sound (s : State) : s.inv = true ↔ Sound s := by
  have hreceived : (∀ r ∈ s.record ++ s.response.toList, r.legal = true) ↔
      s.response.all Response.legal = true ∧ s.record.all Response.legal = true := by
    cases s.response <;> simp [or_imp, forall_and, and_comm]
  constructor
  · intro h
    simp only [State.inv, Bool.and_eq_true, Bool.or_eq_true, Option.isNone_iff_eq_none, Bool.not_eq_true'] at h
    obtain ⟨⟨⟨⟨hmem, hchannels⟩, hresponse⟩, hrecord⟩, hraced⟩ := h
    exact ⟨hmem, hchannels, hreceived.2 ⟨hresponse, hrecord⟩, fun hr => by simpa [hr] using hraced⟩
  · rintro ⟨hmem, hchannels, hrec, hraced⟩
    obtain ⟨hresponse, hrecord⟩ := hreceived.1 hrec
    cases hr : s.raced <;> simp_all [State.inv]

theorem sound_reset : Sound State.reset where
  mem := reset_mem_wf
  channels := .inl rfl
  received _ h := by simp [State.reset] at h
  raced h := by simp [State.reset] at h

theorem Sound.moves {s : State} (h : Sound s) (rest : List HostMove) : Sound { s with moves := rest } :=
  ⟨h.mem, h.channels, h.received, h.raced⟩

/-- A command ends with a legal response and a canonical memory. -/
theorem Sound.deliver {s : State} (h : Sound s) {m : Memory} (hm : m.wf = true) {r : Response}
    (hr : r.legal = true) (d : Nat) : Sound { (s.withMem m).deliver r with draws := d } where
  mem := hm
  channels := .inl rfl
  received r' hr' := by
    obtain hrecord | rfl : r' ∈ s.record ∨ r' = r := by simpa using hr'
    · exact h.received r' (List.mem_append_left _ hrecord)
    · exact hr
  raced h' := by simp at h'

theorem Sound.unitTurn {s t : State} (h : Sound s) (ht : unitTurn s = .next t) : Sound t := by
  cases hf : s.inFlight with
  | none =>
    obtain rfl : s = t := by simpa [Machine.unitTurn, hf] using ht
    exact h
  | some p =>
    obtain ⟨m, r, d, hturn, hlegal, hwf⟩ := unitTurn_ends hf
    rw [hturn, Host.Outcome.next.injEq] at ht
    exact ht ▸ h.deliver (hwf h.mem) hlegal d

/-- The response that was pending is in the record, and nothing is pending. -/
theorem Sound.consume {s : State} (h : Sound s) : Sound s.consume where
  mem := by simpa using h.mem
  channels := .inr s.consume_response
  received := by simpa using h.received
  raced := by simpa using h.raced

theorem Sound.accept {s : State} (h : Sound s) (p : Packet) : Sound (s.accept p) where
  mem := by simpa using h.mem
  channels := .inr (s.accept_response p)
  received := by simpa using h.received
  raced _ := rfl

theorem Sound.resetUnit {s : State} (h : Sound s) : Sound (resetUnit s) where
  mem := by
    obtain hr | ⟨blob, hclaim, -, hr⟩ := resetUnit_cases s <;> rw [hr]
    · simpa using h.mem
    · exact Memory.fill_wf h.mem _ (State.claimed_fits hclaim)
  channels := .inl (resetUnit_inFlight s)
  received := by simpa using h.received
  raced h' := by simp at h'

/-- A byte is claimed for a command in flight only. -/
theorem State.inFlight_of_claims {s : State} {a : Nat} (h : s.claims a = true) : s.inFlight.isSome = true := by
  cases hc : s.claimed with
  | none => simp [State.claims, hc] at h
  | some blob =>
    obtain ⟨p, _, hf, -⟩ := State.claimed_eq_some.1 hc
    simp [hf]

theorem Sound.hostStore {s t : State} (h : Sound s) {a : Nat} {b : Byte} (ht : hostStore a b s = .next t) :
    Sound t := by
  obtain ⟨ha, hstore⟩ | ⟨-, hstop⟩ := hostStore_cases a b s
  · rw [hstore, Host.Outcome.next.injEq] at ht
    subst ht
    refine ⟨Memory.write_wf h.mem ha b, h.channels, h.received, fun hr => ?_⟩
    obtain hr | hclaim := Bool.or_eq_true_iff.1 hr
    · exact h.raced hr
    · exact State.inFlight_of_claims (s := s) hclaim
  · simp [hstop] at ht

theorem Sound.hostLoad {s t : State} (h : Sound s) {a : Nat} (ht : hostLoad a s = .next t) : Sound t := by
  obtain ⟨-, -, hload⟩ | ⟨-, -, hload⟩ | ⟨-, hstop⟩ := hostLoad_cases a s
  · rw [hload, Host.Outcome.next.injEq] at ht
    exact ht ▸ ⟨h.mem, h.channels, h.received, h.raced⟩
  · rw [hload, Host.Outcome.next.injEq] at ht
    exact ht ▸ ⟨h.mem, h.channels, h.received, h.raced⟩
  · simp [hstop] at ht

theorem Sound.step {s t : State} (h : Sound s) (ht : step s = .next t) : Sound t := by
  obtain ⟨hturn, -⟩ | ⟨p, rest, -, -, hissue⟩ | ⟨rest, -, -, hawait⟩ | ⟨a, b, rest, -, hstore⟩ |
    ⟨a, rest, -, hload⟩ | ⟨rest, -, hreset⟩ := step_cases s
  · exact h.unitTurn (hturn ▸ ht)
  · rw [hissue, Host.Outcome.next.injEq] at ht
    exact ht ▸ (h.moves rest).accept p
  · rw [hawait, Host.Outcome.next.injEq] at ht
    exact ht ▸ (h.moves rest).consume
  · exact (h.moves rest).hostStore (hstore ▸ ht)
  · exact (h.moves rest).hostLoad (hload ▸ ht)
  · rw [hreset, Host.Outcome.next.injEq] at ht
    exact ht ▸ (h.moves rest).resetUnit

/-- Settles O15. -/
theorem resetMeetsTheInvariant : Obligations.ResetMeetsTheInvariant := (State.inv_iff_sound _).2 sound_reset

/-- Settles O14: part by part, by the cases of the step. -/
theorem everyStepKeepsTheInvariant : Obligations.EveryStepKeepsTheInvariant := by
  intro s t hs ht
  have hsound : Sound s := (State.inv_iff_sound s).1 hs
  exact (State.inv_iff_sound t).2 (hsound.step ht)

/-! ### Offers, waits and programs of packets -/

/-- An idle unit accepts the packet offered (R26). -/
theorem step_issue_of_idle {s : State} {q : Packet} {rest : List HostMove} (hm : s.moves = .issue q :: rest)
    (hf : s.inFlight = none) : step s = .next (State.accept { s with moves := rest } q) := by
  simp [step, hm, hostMove, hf]

/-- With no command in flight, the host's wait takes the response pending, if there is one (R25). -/
theorem step_await_of_idle {s : State} {rest : List HostMove} (hm : s.moves = .await :: rest)
    (hf : s.inFlight = none) : step s = .next (State.consume { s with moves := rest }) := by
  simp [step, hm, hostMove, hf]

/-- Settles O10: an idle unit accepts; else the step is the unit's turn, which ends its command. -/
theorem offerWaitsForTheCommandInFlight : Obligations.OfferWaitsForTheCommandInFlight := by
  intro s q rest hm
  refine ⟨fun hf => ⟨_, step_issue_of_idle hm hf, by simp⟩, fun p hf => ?_⟩
  obtain ⟨m, r, d, hturn, -, -⟩ := unitTurn_ends hf
  exact ⟨_, r, (step_eq_unitTurn hf (.inr (.inl ⟨q, rest, hm⟩))).trans hturn, rfl, rfl, rfl, rfl⟩

/-- A run of `k + 1` steps is one step and a run of `k`. -/
theorem run_succ {s t : State} (h : step s = .next t) (k : Nat) :
    Sys2Proof.core.run (k + 1) s = Sys2Proof.core.run k t := by
  have hcore : Sys2Proof.core.step s = .next t := h
  simp only [Host.Core.run, hcore]

/-- The moves of a host that issues packets one after another and then waits. -/
def programMoves (ps : List Packet) : List HostMove := ps.map HostMove.issue ++ [.await]

theorem hostWaits_of_programMoves {s : State} {ps : List Packet} (h : s.moves = programMoves ps) : HostWaits s := by
  cases ps with
  | nil => exact .inr (.inr ⟨[], h⟩)
  | cons p ps => exact .inr (.inl ⟨p, programMoves ps, h⟩)

/-- Two steps take an idle unit through one packet of a program: it accepts the packet and ends it with one response.
The response of the packet before, if it is still pending, goes to the record. -/
theorem run_packet_of_program {s : State} {p : Packet} {ps : List Packet} (hf : s.inFlight = none)
    (hm : s.moves = programMoves (p :: ps)) :
    ∃ t r, (∀ k, Sys2Proof.core.run (k + 2) s = Sys2Proof.core.run k t) ∧ t.inFlight = none ∧
      t.response = some r ∧ t.record = s.record ++ s.response.toList ∧ t.moves = programMoves ps := by
  have haccept : step s = .next (State.accept { s with moves := programMoves ps } p) := step_issue_of_idle hm hf
  have hwaits : HostWaits (State.accept { s with moves := programMoves ps } p) :=
    hostWaits_of_programMoves (State.accept_moves _ p)
  obtain ⟨m, r, d, hturn, -, -⟩ := unitTurn_ends (State.accept_inFlight { s with moves := programMoves ps } p)
  have hend := (step_eq_unitTurn (State.accept_inFlight _ p) hwaits).trans hturn
  exact ⟨_, r, fun k => (run_succ haccept (k + 1)).trans (run_succ hend k), rfl, rfl, by simp, by simp⟩

/-- A program of `n` packets takes `2n + 1` steps; a response pending at its start is recorded before its own `n`. -/
theorem run_program (ps : List Packet) (s : State) (hf : s.inFlight = none) (hm : s.moves = programMoves ps) :
    ∃ t rs, Sys2Proof.core.run (2 * ps.length + 1) s = .next t ∧ rs.length = ps.length ∧
      t.record = s.record ++ s.response.toList ++ rs ∧ t.inFlight = none ∧ t.response = none ∧ t.moves = [] := by
  induction ps generalizing s with
  | nil => exact ⟨_, [], run_succ (step_await_of_idle hm hf) 0, rfl, by simp, by simpa using hf, by simp, by simp⟩
  | cons p ps ih =>
    obtain ⟨u, r, hrun, huf, hur, hurec, hum⟩ := run_packet_of_program hf hm
    obtain ⟨t, rs, ht, hlen, hrec, hrest⟩ := ih u huf hum
    exact ⟨t, r :: rs, (hrun _).trans ht, by simp [hlen], by simp [hrec, hurec, hur], hrest⟩

/-- Settles O11, by induction on the program (`run_program`). -/
theorem hostProgramGetsOneResponsePerPacket : Obligations.HostProgramGetsOneResponsePerPacket := by
  intro ps s hf hr hm
  simpa [hr] using run_program ps s hf hm

/-! ### The host and blob memory -/

/-- A host store outside the blob in flight writes its byte and does nothing else (R48). -/
theorem step_store_beside {s : State} {a : Nat} {b : Byte} {rest : List HostMove} (ha : a < 2 ^ 32)
    (hc : s.claims a = false) (hm : s.moves = .store a b :: rest) :
    step s = .next { s with mem := s.mem.write a b, moves := rest } := by
  simpa [step, hm, hostMove, hostStore, hc] using ha

/-- A host load outside the blob in flight returns the byte and does nothing else (R40, R48). -/
theorem step_load_beside {s : State} {a : Nat} {rest : List HostMove} (ha : a < 2 ^ 32)
    (hc : s.claims a = false) (hm : s.moves = .load a :: rest) :
    step s = .next { s with reads := s.reads ++ [s.mem.read a], moves := rest } := by
  simpa [step, hm, hostMove, hostLoad, hc] using ha

/-- Settles O56: the store leaves the blob in flight what it was, so the load is beside it too. -/
theorem hostReadsBackWhatItWrote : Obligations.HostReadsBackWhatItWrote := by
  intro s a b rest ha hc hm
  have hstore := step_store_beside ha hc hm
  have hclaims := State.claims_congr (s := s)
    (s' := { s with mem := s.mem.write a b, moves := .load a :: rest }) rfl rfl a
  have hload := step_load_beside ha (hclaims.trans hc) rfl
  refine ⟨_, (run_succ hstore 1).trans (run_succ hload 0), ?_⟩
  simp +contextual [Memory.read_write]

end Sys2Proof.Machine

/-! ## Memory: reading commands, blobs that are not admitted, exclusive use of the blob in flight -/

namespace Sys2Proof.Machine

/-! ### Commands that only read -/

/-- Behind its checks, a command that R46 does not list as writing answers in the memory it found. -/
theorem exec_of_reading {i : Instr} (h : writesMemory i = false) (s : State) :
    ∃ r, exec i s = guarded (checksOf s.params i) s (complete s r) := by
  cases i
  case setbit | setbitv | clearbit | flipbit | lshift | lshiftG1 | lshiftG8 | lshiftG32 | rshift | rshiftG1 |
      rshiftG8 | rshiftG32 | lrot | lrotG1 | lrotG8 | lrotG32 | rrot | rrotG1 | rrotG8 | rrotG32 =>
    simp [writesMemory] at h
  all_goals exact ⟨_, rfl⟩

/-- Settles O21: a reading command ends with a fault or completes, and neither end writes. -/
theorem readingCommandsWriteNothing : Obligations.ReadingCommandsWriteNothing := by
  intro i s t hread h
  obtain ⟨r, hexec⟩ := exec_of_reading hread s
  rw [hexec] at h
  obtain ⟨f, -, hfault⟩ | ⟨-, hbody⟩ := guarded_cases (checksOf s.params i) s (complete s r)
  · rw [hfault, raise_eq, Host.Outcome.next.injEq] at h
    rw [← h, State.deliver_mem]
  · rw [hbody, complete_eq, Host.Outcome.next.injEq] at h
    rw [← h, State.deliver_mem]

/-! ### Admission comes first -/

/-- The checks of a command that names a blob begin with its admission, whatever the parameters (R242). -/
theorem checksOf_begins_with_admitBlob {i : Instr} {buf len : Nat} (h : blobOf i = some (buf, len)) :
    ∃ (b l : Word) (rest : List (Option CmdFault)), b.toNat = buf ∧ l.toNat = len ∧
      ∀ p, checksOf p i = firstFault (admitBlob p b l :: rest) := by
  cases i <;> simp only [blobOf, Option.some.injEq, Prod.mk.injEq, reduceCtorEq] at h <;> obtain ⟨hb, hl⟩ := h
  all_goals exact ⟨_, _, _, hb, hl, fun _ => rfl⟩

/-- Settles O26: the first check is admission, it finds BAD_LEN, and the first fault found is the one reported. -/
theorem unadmittedBlobFaultsBadLen : Obligations.UnadmittedBlobFaultsBadLen := by
  intro i s buf len hblob hbad
  obtain ⟨b, l, rest, rfl, rfl, hchecks⟩ := checksOf_begins_with_admitBlob hblob
  have hnot : ¬ Admitted s.params b l := by
    rintro ⟨hmax, htop, hregion⟩
    omega
  have hfault : checksOf s.params i = some .badLen := by
    rw [hchecks, admitBlob_eq_badLen hnot, firstFault_some]
  exact exec_of_fault hfault

/-! ### Exclusive use (R47, R275) -/

/-- What it is for the host to keep R275 in its next move. -/
theorem State.exclusive_iff (s : State) :
    s.exclusive = true ↔ s.raced = false ∧ (∀ a b rest, s.moves = .store a b :: rest → s.claims a = false) ∧
      ∀ a rest, s.moves = .load a :: rest → s.claims a = false := by
  unfold State.exclusive
  split <;> simp_all

/-- A step after which no command is raced and which drew no free value. -/
structure Quiet (s t : State) : Prop where
  raced : t.raced = false
  draws : t.draws = s.draws

theorem quiet_deliver (s : State) (m : Memory) (r : Response) : Quiet s ((s.withMem m).deliver r) := ⟨rfl, rfl⟩

/-- The end of a command that was not raced draws nothing, and an idle unit does nothing. -/
theorem quiet_of_unitTurn {s t : State} (hr : s.raced = false) (h : unitTurn s = .next t) : Quiet s t := by
  obtain ⟨-, hidle⟩ | ⟨p, i, -, -, hlegal⟩ | ⟨p, e, -, -, hillegal⟩ := unitTurn_cases s
  · rw [hidle, Host.Outcome.next.injEq] at h
    exact h ▸ ⟨hr, rfl⟩
  · obtain ⟨m, r, hexec, -⟩ := exec_delivers i s
    rw [hlegal, settleRace_not_raced hr, hexec, Host.Outcome.next.injEq] at h
    exact h ▸ quiet_deliver s m r
  · rw [hillegal, raise_eq, Host.Outcome.next.injEq] at h
    exact h ▸ quiet_deliver s s.mem _

theorem quiet_of_hostStore {a : Nat} {b : Byte} {s t : State} (hr : s.raced = false) (hc : s.claims a = false)
    (h : hostStore a b s = .next t) : Quiet s t := by
  obtain ⟨-, hstore⟩ | ⟨-, hstop⟩ := hostStore_cases a b s
  · rw [hstore, Host.Outcome.next.injEq] at h
    exact h ▸ ⟨by simp [hr, hc], rfl⟩
  · simp [hstop] at h

theorem quiet_of_hostLoad {a : Nat} {s t : State} (hr : s.raced = false) (hc : s.claims a = false)
    (h : hostLoad a s = .next t) : Quiet s t := by
  obtain ⟨-, hclaim, -⟩ | ⟨-, -, hload⟩ | ⟨-, hstop⟩ := hostLoad_cases a s
  · simp [hc] at hclaim
  · rw [hload, Host.Outcome.next.injEq] at h
    exact h ▸ ⟨hr, rfl⟩
  · simp [hstop] at h

/-- A step of an exclusive host is quiet, unless it is a reset, which ends every race but may draw (R271). -/
theorem quiet_or_reset_of_step {s t : State} (hs : s.exclusive = true) (h : step s = .next t) :
    Quiet s t ∨ (t.raced = false ∧ ∃ rest, s.moves = .reset :: rest) := by
  obtain ⟨hr, hkeepStore, hkeepLoad⟩ := s.exclusive_iff.1 hs
  obtain ⟨hturn, -⟩ | ⟨p, rest, -, -, hissue⟩ | ⟨rest, -, -, hawait⟩ | ⟨a, b, rest, hm, hstore⟩ |
    ⟨a, rest, hm, hload⟩ | ⟨rest, hm, hreset⟩ := step_cases s
  · exact .inl (quiet_of_unitTurn hr (hturn ▸ h))
  · rw [hissue, Host.Outcome.next.injEq] at h
    exact h ▸ .inl ⟨State.accept_raced _ p, State.accept_draws _ p⟩
  · rw [hawait, Host.Outcome.next.injEq] at h
    exact h ▸ .inl ⟨(State.consume_raced _).trans hr, State.consume_draws _⟩
  · have hc : State.claims { s with moves := rest } a = false := (s.claims_moves rest a).trans (hkeepStore a b rest hm)
    have hquiet := quiet_of_hostStore (s := { s with moves := rest }) hr hc (hstore ▸ h)
    exact .inl ⟨hquiet.raced, hquiet.draws⟩
  · have hc : State.claims { s with moves := rest } a = false := (s.claims_moves rest a).trans (hkeepLoad a rest hm)
    have hquiet := quiet_of_hostLoad (s := { s with moves := rest }) hr hc (hload ▸ h)
    exact .inl ⟨hquiet.raced, hquiet.draws⟩
  · rw [hreset, Host.Outcome.next.injEq] at h
    exact h ▸ .inr ⟨resetUnit_raced _, rest, hm⟩

/-- Settles O58: an exclusive host's step is quiet, and the reset is the one exception for draws. -/
theorem exclusiveUseNeverRaces : Obligations.ExclusiveUseNeverRaces := by
  intro s t hs h
  obtain hquiet | ⟨hraced, rest, hm⟩ := quiet_or_reset_of_step hs h
  · exact ⟨hquiet.raced, fun _ => hquiet.draws⟩
  · exact ⟨hraced, fun hnot => absurd hm (hnot rest)⟩

end Sys2Proof.Machine

/-! ## Encoding: the decoder, the encoder, the assembler, and the ranges of RESULT -/

namespace Sys2Proof

/-! ### 64-bit operands (R74) -/

@[simp] theorem joinWords_highWord_lowWord (x : DWord) : joinWords (highWord x) (lowWord x) = x :=
  (BitVec.extractLsb'_append_extractLsb'_eq_extractLsb' rfl).trans BitVec.extractLsb'_eq_self

@[simp] theorem lowWord_joinWords (hi lo : Word) : lowWord (joinWords hi lo) = lo := BitVec.extractLsb'_append_eq_right

@[simp] theorem highWord_joinWords (hi lo : Word) : highWord (joinWords hi lo) = hi := BitVec.extractLsb'_append_eq_left

/-! ### The words a format leaves unused (R73, R74) -/

/-- Which of `W[2]`, `W[3]`, `W[4]` a format marks "must be 0", said of the format where `mustBeZero` says it of the
operation code. -/
def Format.unused : Format → Bool × Bool × Bool
  | .v32 => (true, true, true)
  | .v64 => (false, true, true)
  | .vc32 => (true, false, true)
  | .vw32 => (true, false, false)
  | .bi | .bc | .vc64 => (false, false, true)
  | .biv | .v128 | .bw | .vw64 => (false, false, false)

/-- The check of the decoder, in the form of R78 item 5. -/
theorem Format.unusedZero_eq (f : Format) (p : Packet) :
    f.unusedZero p = ((!f.unused.1 || p.w2 == 0#32) && (!f.unused.2.1 || p.w3 == 0#32) &&
      (!f.unused.2.2 || p.w4 == 0#32)) := by
  cases f <;> simp [Format.unusedZero, Format.unused]

/-- The packet with the words a format leaves unused made 0. -/
def Format.clear (f : Format) (p : Packet) : Packet :=
  { p with
    w2 := if f.unused.1 then 0#32 else p.w2
    w3 := if f.unused.2.1 then 0#32 else p.w3
    w4 := if f.unused.2.2 then 0#32 else p.w4 }

theorem Format.clear_of_unusedZero {f : Format} {p : Packet} (h : f.unusedZero p = true) : f.clear p = p := by
  obtain ⟨w0, w1, w2, w3, w4⟩ := p
  cases f <;> simp_all [Format.unusedZero, Format.clear, Format.unused]

/-! ### The rows of the opcode map (R79) -/

/-- The row that the decoder finds for `W[0]` (R76). -/
def rowFor (w : Word) : Option OpRow := opcodeMap.find? (fun r => r.word == w)

theorem rowFor_eq_some {w : Word} {r : OpRow} (h : rowFor w = some r) : r ∈ opcodeMap ∧ r.word = w :=
  ⟨List.mem_of_find?_eq_some h, by simpa using List.find?_some h⟩

/-- The packet of a row with every operand 0. -/
def OpRow.bare (r : OpRow) : Packet := ⟨r.word, 0#32, 0#32, 0#32, 0#32⟩

/-- No row of the opcode map has a `W[0]` that R78 calls illegal. -/
theorem bare_wellFormed : ∀ r ∈ opcodeMap, r.bare.wellFormed = true := by decide

/-- R78 item 5 and the format of the row mark the same words. -/
theorem mustBeZero_bare : ∀ r ∈ opcodeMap, mustBeZero r.bare.opc = r.format.unused := by decide

/-- The encoder undoes the operand binding of each row, but for the words the format leaves unused, which it makes 0. -/
theorem encode_bind : ∀ r ∈ opcodeMap, ∀ p, encode (r.bind p) = r.format.clear { p with w0 := r.word } := by
  simp [opcodeMap, opRowsBits, opRowsShift, opRowsRotate, opRowsWindow, encode, packBI, packBC, packBW, packV32, packV64,
    packVC32, packVC64, Format.clear, Format.unused]

/-- The packet of a command has its row's `W[0]`, unused words 0, and the operands that the row binds. -/
theorem rowFor_encode (i : Instr) :
    ∃ r, rowFor (encode i).w0 = some r ∧ r.format.unusedZero (encode i) = true ∧ r.bind (encode i) = i := by
  cases i
  case popcountW64 | popcountW128 | parityW64 | lshiftW64 | rshiftW64 | lrotW64 | rrotW64 | windowW64 =>
    exact ⟨_, rfl, rfl, by simp [encode, packV64, packVC64]⟩
  all_goals exact ⟨_, rfl, rfl, rfl⟩

/-! ### Legal packets by their row (R78) -/

theorem bare_opc {r : OpRow} {p : Packet} (h : r.word = p.w0) : r.bare.opc = p.opc := by
  rw [Packet.opc, Packet.opc, ← h, OpRow.bare]

/-- Four of the five cases of R78 look at `W[0]` alone. -/
theorem wellFormed_eq_bare {r : OpRow} {p : Packet} (h : r.word = p.w0) :
    p.wellFormed = (r.bare.wellFormed && p.unusedZero) := by
  have hbare : r.bare.unusedZero = true := by simp [Packet.unusedZero, OpRow.bare]
  have hgran : r.bare.gran = p.gran := by rw [Packet.gran, Packet.gran, ← h, OpRow.bare]
  have hreserved : r.bare.reservedZero = p.reservedZero := by
    rw [Packet.reservedZero, Packet.reservedZero, ← h, OpRow.bare]
  rw [Packet.wellFormed, Packet.wellFormed, hbare, hreserved]
  simp only [Packet.opcodeAssigned, Packet.granAllowed, Packet.notWindowG1, bare_opc h, hgran, Bool.and_true]

/-- A packet with the `W[0]` of a row is legal exactly when the words that the row's format leaves unused are 0. -/
theorem wellFormed_of_row {r : OpRow} {p : Packet} (hr : r ∈ opcodeMap) (hw : r.word = p.w0) :
    p.wellFormed = r.format.unusedZero p := by
  rw [wellFormed_eq_bare hw, bare_wellFormed r hr, Format.unusedZero_eq, Packet.unusedZero, ← bare_opc hw,
    mustBeZero_bare r hr, Bool.true_and]

/-- With its reserved bits 0, `W[0]` is GRAN and OPC (R71). -/
theorem w0_eq_of_reservedZero {p : Packet} (h : p.reservedZero = true) :
    p.w0 = BitVec.ofNat 32 (256 * p.gran + p.opc) := by
  have hzero : p.w0.toNat / 2 ^ 10 % 2 ^ 22 = 0 := by
    simpa [Packet.reservedZero, ← BitVec.toNat_inj, Nat.shiftRight_eq_div_pow] using h
  apply BitVec.eq_of_toNat_eq
  simp only [Packet.gran, Packet.opc, BitVec.extractLsb'_toNat, BitVec.toNat_ofNat, Nat.shiftRight_eq_div_pow]
  have := p.w0.isLt
  omega

/-- The opcode map has a row for every GRAN and OPC that R78 items 2 to 4 allow. -/
theorem rowFor_isSome_of_allowed : ∀ o ∈ assignedOpcodes, ∀ g < 4,
    (g == 0 || [0x30, 0x31, 0x40, 0x41, 0x50].contains o) = true → (!(o == 0x50 && g == 1)) = true →
      (rowFor (BitVec.ofNat 32 (256 * g + o))).isSome = true := by decide

theorem rowFor_isSome_of_wellFormed {p : Packet} (h : p.wellFormed = true) : (rowFor p.w0).isSome = true := by
  simp only [Packet.wellFormed, Bool.and_eq_true] at h
  obtain ⟨⟨⟨⟨hreserved, hassigned⟩, hgran⟩, hwindow⟩, -⟩ := h
  rw [w0_eq_of_reservedZero hreserved]
  exact rowFor_isSome_of_allowed p.opc (List.contains_iff_mem.1 hassigned) p.gran (BitVec.isLt _) hgran hwindow

/-- A packet is legal exactly when its `W[0]` has a row and the words that the row's format leaves unused are 0. -/
theorem wellFormed_iff_row (p : Packet) :
    p.wellFormed = true ↔ ∃ r, rowFor p.w0 = some r ∧ r.format.unusedZero p = true := by
  constructor
  · intro h
    obtain ⟨r, hrow⟩ := Option.isSome_iff_exists.1 (rowFor_isSome_of_wellFormed h)
    obtain ⟨hmem, hw⟩ := rowFor_eq_some hrow
    exact ⟨r, hrow, wellFormed_of_row hmem hw ▸ h⟩
  · rintro ⟨r, hrow, hzero⟩
    obtain ⟨hmem, hw⟩ := rowFor_eq_some hrow
    exact (wellFormed_of_row hmem hw).trans hzero

/-! ### The decoder -/

/-- The decoder accepts a packet whose `W[0]` has a row and whose unused words are 0, and binds the operands by the row:
its test of the reserved bits refuses nothing more. -/
theorem decode_eq_ok_iff (p : Packet) (i : Instr) :
    decode p = .ok i ↔ ∃ r, rowFor p.w0 = some r ∧ r.format.unusedZero p = true ∧ r.bind p = i := by
  have hreserved {r : OpRow} (hrow : rowFor p.w0 = some r) (hzero : r.format.unusedZero p = true) :
      p.reservedZero = true := by
    have hlegal := (wellFormed_iff_row p).2 ⟨r, hrow, hzero⟩
    simp only [Packet.wellFormed, Bool.and_eq_true] at hlegal
    obtain ⟨⟨⟨⟨hreserved, -⟩, -⟩, -⟩, -⟩ := hlegal
    exact hreserved
  constructor
  · intro h
    unfold decode at h
    split at h
    · cases h
    · split at h
      · split at h <;> cases h
      · next r hrow =>
        split at h
        · next hzero => exact ⟨r, hrow, hzero, Except.ok.inj h⟩
        · cases h
  · rintro ⟨r, hrow, hzero, hbind⟩
    rw [rowFor] at hrow
    simp [decode, hreserved hrow hzero, hrow, hzero, hbind]

/-- Settles O1: the decoder finds the row of the command, and the row binds the operands that the encoder packed. -/
theorem decodeOfEncodeIsIdentity : Obligations.DecodeOfEncodeIsIdentity :=
  fun i => (decode_eq_ok_iff (encode i) i).2 (rowFor_encode i)

/-- Settles O2: the encoder puts back the operands that the row bound, and the words it makes 0 were 0. -/
theorem encodeOfDecodeIsIdentity : Obligations.EncodeOfDecodeIsIdentity := by
  intro p i h
  obtain ⟨r, hrow, hzero, rfl⟩ := (decode_eq_ok_iff p i).1 h
  obtain ⟨hmem, hw⟩ := rowFor_eq_some hrow
  calc encode (r.bind p) = r.format.clear { p with w0 := r.word } := encode_bind r hmem p
    _ = r.format.clear p := by rw [hw]
    _ = p := Format.clear_of_unusedZero hzero

/-- Settles O3: both sides say that `W[0]` has a row and that its unused words are 0. -/
theorem decoderAcceptsExactlyLegalPackets : Obligations.DecoderAcceptsExactlyLegalPackets := by
  intro p
  simp only [wellFormed_iff_row, decode_eq_ok_iff]
  constructor
  · rintro ⟨r, hrow, hzero⟩
    exact ⟨r.bind p, r, hrow, hzero, rfl⟩
  · rintro ⟨i, r, hrow, hzero, -⟩
    exact ⟨r, hrow, hzero⟩

/-- The legal packets are the packets of the forty commands. -/
theorem wellFormed_iff_exists_encode (p : Packet) : p.wellFormed = true ↔ ∃ i, encode i = p := by
  rw [decoderAcceptsExactlyLegalPackets p]
  constructor
  · rintro ⟨i, h⟩
    exact ⟨i, encodeOfDecodeIsIdentity p i h⟩
  · rintro ⟨i, rfl⟩
    exact ⟨i, decodeOfEncodeIsIdentity i⟩

/-- Settles O4: each packet is the packet of its command. -/
theorem packetsOfTheSpecDecode : Obligations.PacketsOfTheSpecDecode :=
  ⟨decodeOfEncodeIsIdentity (.setbit 0x1000#32 3#32 7#32),
    decodeOfEncodeIsIdentity (.popcountW128 0x0123456789ABCDEF#64 0xFEDCBA9876543210#64),
    decodeOfEncodeIsIdentity (.lshiftG32 0x3000#32 4#32 4#32),
    decodeOfEncodeIsIdentity (.lrotW32 0x23456780#32 0xFFFFFFFC#32),
    decodeOfEncodeIsIdentity (.windowG8 0x3000#32 4#32 0x1C#32 8#32)⟩

end Sys2Proof

namespace Sys2Proof.Machine

/-! ### Illegal packets in flight (R78) -/

theorem decode_error_of_illegal {p : Packet} (h : p.wellFormed = false) : ∃ e, decode p = .error e := by
  cases hd : decode p with
  | error e => exact ⟨e, rfl⟩
  | ok i => simp [(decoderAcceptsExactlyLegalPackets p).2 ⟨i, hd⟩] at h

theorem unitTurn_of_illegal {s : State} {p : Packet} (hf : s.inFlight = some p) (h : p.wellFormed = false) :
    unitTurn s = raise .illegalCmd s := by
  obtain ⟨e, hd⟩ := decode_error_of_illegal h
  simp [unitTurn, hf, runPacket, hd]

/-- Settles O8: the legal packets are those of the commands, and the unit's turn on any other is ILLEGAL_CMD. -/
theorem illegalPacketFaults : Obligations.IllegalPacketFaults := by
  refine ⟨fun p => ?_, fun s p hf h hw => ?_, by decide, by decide⟩
  · rw [← Bool.not_eq_true, wellFormed_iff_exists_encode, not_exists]
  · exact (step_eq_unitTurn hf hw).trans (unitTurn_of_illegal hf h)

/-! ### The assembler (R80, R81) -/

/-- A packet that the assembler answers has this `W[0]`, and 0 in the words that the format leaves unused. -/
def PackedBy (w : Word) (f : Format) (a : Except AsmError Packet) : Prop :=
  ∀ p, a = .ok p → p.w0 = w ∧ f.unusedZero p = true

theorem packedBy_ok {w : Word} {f : Format} {p : Packet} (hw : p.w0 = w) (hzero : f.unusedZero p = true) :
    PackedBy w f (.ok p) := by
  rintro q ⟨⟩
  exact ⟨hw, hzero⟩

theorem packedBy_bind {α : Type} {w : Word} {f : Format} {x : Except AsmError α} {g : α → Except AsmError Packet}
    (h : ∀ a, PackedBy w f (g a)) : PackedBy w f (x >>= g) := by
  cases x with
  | error e => rintro q ⟨⟩
  | ok a => exact h a

theorem packedBy_asmPacket (w : Word) (f : Format) (ops : List Int) : PackedBy w f (asmPacket w f ops) := by
  unfold asmPacket
  split
  case h_12 => rintro q ⟨⟩
  all_goals repeat refine packedBy_bind fun _ => ?_
  all_goals exact packedBy_ok rfl rfl

theorem wellFormed_of_assembleReal {name : String} {ops : List Int} {p : Packet}
    (h : assembleReal name ops = .ok p) : p.wellFormed = true := by
  unfold assembleReal at h
  split at h
  · next r hrow =>
    obtain ⟨hw, hzero⟩ := packedBy_asmPacket _ _ _ p h
    exact (wellFormed_of_row (List.mem_of_find?_eq_some hrow) hw.symm).trans hzero
  · split at h <;> cases h

theorem wellFormed_of_assembleCommand {name : String} {ops : List Int} {p : Packet}
    (h : assembleCommand name ops = .ok p) : p.wellFormed = true := by
  unfold assembleCommand at h
  split at h
  · exact wellFormed_of_assembleReal h
  · cases h

/-- Settles O6: a line that assembles is packed for a row of the opcode map. -/
theorem assembledPacketsAreLegal : Obligations.AssembledPacketsAreLegal := by
  intro line p h
  simp only [assembleLine] at h
  split at h
  · cases h
  · split at h
    · cases h
    · exact wellFormed_of_assembleCommand h

theorem expandPseudo_zero (buf len : Int) :
    expandPseudo "zero" [buf, len] = if 8 * len ≤ 2 ^ 31 - 1 then some ("lshift", [buf, len, 8 * len]) else none := rfl

/-- The real commands that pseudo-instructions expand to are no pseudo-instructions. -/
theorem expandPseudo_of_expansion (ops : List Int) :
    ∀ name ∈ ["getbitw", "popcount.w128", "setbitv", "lshift"], expandPseudo name ops = some (name, ops) := by
  simp [expandPseudo]

/-- A mnemonic and its expansion assemble to the same packet. -/
theorem assembleCommand_of_expandPseudo {name real : String} {ops args : List Int}
    (h : expandPseudo name ops = some (real, args)) (hreal : real ∈ ["getbitw", "popcount.w128", "setbitv", "lshift"]) :
    assembleCommand name ops = assembleCommand real args := by
  simp only [assembleCommand, h, expandPseudo_of_expansion args real hreal]

/-- Settles O5: each expands to its real command, and `zero` to nothing when it names too many bits. -/
theorem pseudoInstructionsExpand : Obligations.PseudoInstructionsExpand := by
  refine ⟨fun _ _ _ => ?_, fun _ _ _ _ => ?_, fun _ _ => ?_, fun buf len h => ?_, fun buf len h => ?_⟩
  · exact assembleCommand_of_expandPseudo rfl (by decide)
  · exact assembleCommand_of_expandPseudo rfl (by decide)
  · exact assembleCommand_of_expandPseudo rfl (by decide)
  · exact assembleCommand_of_expandPseudo ((expandPseudo_zero buf len).trans (if_pos h)) (by decide)
  · have hnone : expandPseudo "zero" [buf, len] = none := (expandPseudo_zero buf len).trans (if_neg (not_le.2 h))
    exact ⟨.outOfRange, by simp only [assembleCommand, hnone]⟩

/-! ### The range of RESULT (R77) -/

/-- The largest RESULT of a command, by what R77 says it returns: a bit, a count, a 64-bit or a 32-bit value, or 0. -/
def resultBound : Instr → Nat
  | .getbit .. | .getbitw .. | .parityW32 .. | .parityW64 .. => 1
  | .popcountW32 .. => 32
  | .popcountW64 .. => 64
  | .popcountW128 .. => 128
  | .lshiftW64 .. | .rshiftW64 .. | .lrotW64 .. | .rrotW64 .. => 2 ^ 64 - 1
  | .lshiftW32 .. | .rshiftW32 .. | .lrotW32 .. | .rrotW32 .. => 2 ^ 32 - 1
  | .window .. | .windowG8 .. | .windowG32 .. | .windowW32 .. | .windowW64 .. => 2 ^ 32 - 1
  | _ => 0

/-- The bounds by `W[0]`, as R77 lists them. -/
theorem resultBound_of_word (i : Instr) :
    ((encode i).w0 ∈ [0x10#32, 0x11#32, 0x24#32, 0x25#32] → resultBound i = 1) ∧
    ((encode i).w0 = 0x20#32 → resultBound i = 32) ∧
    ((encode i).w0 = 0x21#32 → resultBound i = 64) ∧
    ((encode i).w0 = 0x22#32 → resultBound i = 128) ∧
    ((encode i).w0 ∈ [0x50#32, 0x250#32, 0x350#32, 0x54#32, 0x56#32, 0x34#32, 0x35#32, 0x44#32, 0x45#32] →
      resultBound i = 2 ^ 32 - 1) ∧
    (writesMemory i = true → resultBound i = 0) := by
  cases i <;> simp [encode, packBI, packBC, packBW, packV32, packV64, packVC32, packVC64, resultBound, writesMemory]

theorem toNat_resultOf_le {v b : Nat} (h : v ≤ b) : (resultOf v).toNat ≤ b := by
  rw [resultOf, BitVec.toNat_ofNat]
  exact (Nat.mod_le _ _).trans h

theorem and_mask_lt {x count : Nat} (h : count ≤ 32) : x &&& mask count < 2 ^ 32 :=
  calc x &&& mask count ≤ mask count := Nat.and_le_right
    _ < 2 ^ count := Nat.sub_lt (Nat.two_pow_pos count) Nat.one_pos
    _ ≤ 2 ^ 32 := Nat.pow_le_pow_right (by decide) h

/-- A meaning that ends with one of its checks' faults, or completes with a RESULT of at most `b`. -/
def BoundedBy (b : Nat) (s : State) (a : Answer) : Prop :=
  (∃ f, a = raise f s) ∨ ∃ m r, r.toNat ≤ b ∧ a = complete (s.withMem m) r

theorem boundedBy_guarded {b : Nat} {s : State} {checks : Option CmdFault} {body : Answer}
    (h : checks = none → BoundedBy b s body) : BoundedBy b s (guarded checks s body) := by
  cases checks with
  | none => exact h rfl
  | some f => exact .inl ⟨f, rfl⟩

theorem boundedBy_complete {b : Nat} (s : State) {v : Nat} (h : v ≤ b) : BoundedBy b s (complete s (resultOf v)) :=
  .inr ⟨s.mem, resultOf v, toNat_resultOf_le h, rfl⟩

theorem boundedBy_zero (s : State) (m : Memory) : BoundedBy 0 s (complete (s.withMem m) 0#64) :=
  .inr ⟨m, 0#64, le_rfl, rfl⟩

theorem boundedBy_readBit (buf : Word) (i : Nat) (s : State) : BoundedBy 1 s (readBit buf i s) := by
  rw [readBit_eq]
  exact boundedBy_complete s (Bool.toNat_le _)

theorem boundedBy_rotateBlob (g : Gran) (f : Nat → Nat → Nat → Nat) (buf len c : Word) (s : State) :
    BoundedBy 0 s (rotateBlob g f buf len c s) := by
  refine boundedBy_guarded fun _ => ?_
  split
  · exact boundedBy_zero s s.mem
  · exact boundedBy_zero s _

theorem boundedBy_shiftValue {N : Nat} {f : Nat → Nat → Nat → Nat} {x : Nat} (hf : ∀ a, f x N a < 2 ^ N) (c : Word)
    (s : State) : BoundedBy (2 ^ N - 1) s (shiftValue N f x c s) :=
  boundedBy_guarded fun _ => boundedBy_complete s (Nat.le_sub_one_of_lt (hf _))

theorem boundedBy_windowBlob (g : Gran) (buf len start count : Word) (s : State) :
    BoundedBy (2 ^ 32 - 1) s (windowBlob g buf len start count s) := by
  refine boundedBy_guarded fun h => boundedBy_complete s (Nat.le_sub_one_of_lt ?_)
  obtain ⟨-, -, -, -, hcount, -⟩ := (windowChecks_eq_none _ _ _ _ _).1 h
  exact and_mask_lt hcount

theorem boundedBy_windowValue (x : Nat) (count : Word) (s : State) :
    BoundedBy (2 ^ 32 - 1) s (guarded (countCheck count) s (complete s (resultOf (x &&& mask count.toNat)))) := by
  refine boundedBy_guarded fun h => boundedBy_complete s (Nat.le_sub_one_of_lt (and_mask_lt ?_))
  simp only [countCheck, faultIf_eq_none, not_or, not_lt] at h
  exact h.2

/-- Every command keeps its RESULT in its range. -/
theorem exec_boundedBy (i : Instr) (s : State) : BoundedBy (resultBound i) s (exec i s) := by
  cases i
  case getbit | getbitw => exact boundedBy_guarded fun _ => boundedBy_readBit _ _ s
  case setbit | setbitv | clearbit | flipbit => exact boundedBy_guarded fun _ => boundedBy_zero s _
  case popcountW32 | popcountW64 => exact boundedBy_complete s (pop_le _ _)
  case popcountW128 => exact boundedBy_complete s (Nat.add_le_add (pop_le 64 _) (pop_le 64 _))
  case parityW32 | parityW64 => exact boundedBy_complete s (Bool.toNat_le _)
  case lshift | lshiftG1 | lshiftG8 | lshiftG32 | rshift | rshiftG1 | rshiftG8 | rshiftG32 =>
    exact boundedBy_guarded fun _ => boundedBy_zero s _
  case lshiftW32 | lshiftW64 => exact boundedBy_shiftValue (shl_lt _ _) _ s
  case rshiftW32 x c | rshiftW64 x c => exact boundedBy_shiftValue (shr_lt x.isLt) c s
  case lrot | lrotG1 | lrotG8 | lrotG32 | rrot | rrotG1 | rrotG8 | rrotG32 => exact boundedBy_rotateBlob _ _ _ _ _ s
  case lrotW32 | lrotW64 => exact boundedBy_complete s (Nat.le_sub_one_of_lt (rol_lt _ _ _))
  case rrotW32 | rrotW64 => exact boundedBy_complete s (Nat.le_sub_one_of_lt (ror_lt _ _ _))
  case window | windowG8 | windowG32 => exact boundedBy_windowBlob _ _ _ _ _ s
  case windowW32 | windowW64 => exact boundedBy_windowValue _ _ s

/-- The response of a command: RESULT in its range if it completes, 0 on a fault (R77). -/
theorem exec_result_le {i : Instr} {s t : State} {r : Response} (h : exec i s = .next t) (hr : t.response = some r) :
    r.result.toNat ≤ resultBound i ∧ (r.status ≠ statusDone → r.result = 0#64) := by
  obtain ⟨f, hfault⟩ | ⟨m, v, hv, hdone⟩ := exec_boundedBy i s
  · rw [hfault, raise_eq, Host.Outcome.next.injEq] at h
    obtain rfl : _ = r := Option.some.inj (h ▸ hr)
    exact ⟨Nat.zero_le _, fun _ => rfl⟩
  · rw [hdone, complete_eq, Host.Outcome.next.injEq] at h
    obtain rfl : _ = r := Option.some.inj (h ▸ hr)
    exact ⟨hv, fun hne => absurd rfl hne⟩

/-- Settles O25: the bound of the command (`exec_result_le`), read off by its `W[0]`. -/
theorem resultStaysInTheRangeOfItsOperation : Obligations.ResultStaysInTheRangeOfItsOperation := by
  intro i s t r h hr
  obtain ⟨hle, hfault⟩ := exec_result_le h hr
  obtain ⟨hbit, hcount32, hcount64, hcount128, hword, hwrites⟩ := resultBound_of_word i
  refine ⟨fun hw => hle.trans_eq (hbit hw), fun hw => hle.trans_eq (hcount32 hw),
    fun hw => hle.trans_eq (hcount64 hw), fun hw => hle.trans_eq (hcount128 hw), fun hw => ?_, fun hw => ?_, hfault⟩
  · exact Nat.lt_of_le_pred (by decide) (hle.trans_eq (hword hw))
  · exact BitVec.eq_of_toNat_eq (Nat.le_zero.1 (hle.trans_eq (hwrites hw)))

end Sys2Proof.Machine

/-! ## BitAddress: the six bit commands -/

namespace Sys2Proof.Machine

/-! ### The checks of the bit commands (R100, R242) -/

/-- The first of several checks is admission, and a blob that is not admitted fails it (R44). -/
theorem firstFault_of_not_admitted {p : Params} {buf len : Word} (h : ¬ Admitted p buf len)
    (rest : List (Option CmdFault)) : firstFault (admitBlob p buf len :: rest) = some .badLen := by
  rw [admitBlob_eq_badLen h, firstFault_some]

/-- An admitted blob leaves the answer to the checks that follow. -/
theorem firstFault_of_admitted {p : Params} {buf len : Word} (h : Admitted p buf len)
    (rest : List (Option CmdFault)) : firstFault (admitBlob p buf len :: rest) = firstFault rest := by
  rw [(admitBlob_eq_none p buf len).2 h, firstFault_none]

theorem bitChecks_of_not_admitted {p : Params} {buf len : Word} (h : ¬ Admitted p buf len) (bit : Word) :
    bitChecks p buf len bit = some .badLen := firstFault_of_not_admitted h _

theorem bitChecks_of_index_outside {p : Params} {buf len bit : Word} (h : Admitted p buf len)
    (hbit : 8 * len.toNat ≤ bit.toNat) : bitChecks p buf len bit = some .badBitIndex := by
  rw [bitChecks, firstFault_of_admitted h, bitCheck, faultIf, if_pos hbit, firstFault_some]

theorem wrapChecks_of_not_admitted {p : Params} {buf len : Word} (h : ¬ Admitted p buf len) :
    wrapChecks p buf len = some .badLen := firstFault_of_not_admitted h _

theorem wrapChecks_of_empty {p : Params} {buf len : Word} (h : Admitted p buf len) (hlen : len.toNat = 0) :
    wrapChecks p buf len = some .badLen := by
  rw [wrapChecks, firstFault_of_admitted h, emptyCheck, faultIf, if_pos hlen, firstFault_some]

/-- The packet format of `getbit` and `getbitw` has no `W[4]` (R73), so a packet that fills it is illegal (R78). -/
theorem runPacket_of_w4_ne_zero {w0 w4 : Word} (hrow : ∃ r ∈ opcodeMap, r.word = w0 ∧ r.format = .bi)
    (hw4 : w4 ≠ 0#32) (w1 w2 w3 : Word) (s : State) : runPacket ⟨w0, w1, w2, w3, w4⟩ s = raise .illegalCmd s := by
  obtain ⟨r, hmem, hw, hbi⟩ := hrow
  have hillegal : Packet.wellFormed ⟨w0, w1, w2, w3, w4⟩ = false := by
    rw [wellFormed_of_row hmem hw, hbi]
    simpa [Format.unusedZero] using hw4
  obtain ⟨e, hd⟩ := decode_error_of_illegal hillegal
  simp [runPacket, hd]

/-! ### Reading a bit (R101, R102) -/

theorem exec_getbit_inside {buf len bit : Word} {s : State} (h : Admitted s.params buf len)
    (hbit : bit.toNat < 8 * len.toNat) :
    exec (.getbit buf len bit) s =
      .next (s.deliver ⟨statusDone, resultOf (s.mem.bitAt buf.toNat bit.toNat).toNat⟩) := by
  rw [exec, execGetbit, (bitChecks_eq_none _ _ _ _).2 ⟨h, hbit⟩, guarded_none, readBit_eq]

theorem exec_getbitw_nonempty {buf len : Word} {s : State} (h : Admitted s.params buf len) (hlen : 0 < len.toNat)
    (bit : Word) :
    exec (.getbitw buf len bit) s =
      .next (s.deliver ⟨statusDone, resultOf (s.mem.bitAt buf.toNat (bit.toNat % (8 * len.toNat))).toNat⟩) := by
  rw [exec, execGetbitw, (wrapChecks_eq_none _ _ _).2 ⟨h, hlen.ne'⟩, guarded_none, readBit_eq]

/-- A bit as RESULT (R77). -/
theorem resultOf_toNat (b : Bool) : resultOf b.toNat = if b then 1#64 else 0#64 := by cases b <;> rfl

/-- Inside the blob, a bit of memory is a bit of the blob's value (R11). -/
theorem Memory.bitAt_eq_testBit (m : Memory) (buf : Nat) {len i : Nat} (h : i < 8 * len) :
    m.bitAt buf i = (m.blobValue buf len).testBit i := by
  simp [Memory.testBit_blobValue, h]

/-- Settles O29: the checks in their order, then the bit that `readBit` answers. -/
theorem getbitReturnsTheAddressedBit : Obligations.GetbitReturnsTheAddressedBit := by
  intro buf len bit s
  refine ⟨rfl, fun w4 hw4 => ?_, fun h => ?_, fun h hbit => ?_, fun h hbit => ?_⟩
  · exact runPacket_of_w4_ne_zero (by decide) hw4 buf len bit s
  · exact exec_of_fault (i := .getbit buf len bit) (bitChecks_of_not_admitted h bit)
  · exact exec_of_fault (i := .getbit buf len bit) (bitChecks_of_index_outside h hbit)
  · rw [exec_getbit_inside h hbit, resultOf_toNat]
    rfl

/-- Settles O30: as O29, but an empty blob is the only other fault. -/
theorem getbitwWrapsTheIndex : Obligations.GetbitwWrapsTheIndex := by
  intro buf len bit s
  refine ⟨rfl, fun w4 hw4 => ?_, fun h => ?_, fun h hlen => ?_, fun h hlen => ?_⟩
  · exact runPacket_of_w4_ne_zero (by decide) hw4 buf len bit s
  · exact exec_of_fault (i := .getbitw buf len bit) (wrapChecks_of_not_admitted h)
  · exact exec_of_fault (i := .getbitw buf len bit) (wrapChecks_of_empty h hlen)
  · rw [exec_getbitw_nonempty h hlen, resultOf_toNat]
    rfl

/-! ### Changing a bit (R103 to R106) -/

/-- A change of a byte that makes bit `i mod 8` what `new` says of it and keeps the other seven. -/
def ChangesBit (i : Nat) (new : Bool → Bool) (f : Byte → Byte) : Prop :=
  ∀ (b : Byte) (k : Nat), k < 8 → (f b).getLsbD k = if k = i % 8 then new (b.getLsbD k) else b.getLsbD k

theorem changesBit_putBit (i : Nat) (v : Bool) : ChangesBit i (fun _ => v) (fun b => putBit b i v) :=
  fun b k hk => getLsbD_putBit b i k v hk

theorem changesBit_xor (i : Nat) : ChangesBit i (fun b => !b) (fun b => b ^^^ bitMask i) := by
  intro b k hk
  rw [BitVec.getLsbD_xor, getLsbD_bitMask i k hk]
  by_cases h : k = i % 8 <;> simp [h]

/-- The command is a mutator of one bit: behind the checks of R100, one byte is changed in that bit. -/
def Mutates (buf len bit : Word) (new : Bool → Bool) (i : Instr) : Prop :=
  ∃ f, ChangesBit bit.toNat new f ∧
    ∀ s, exec i s = guarded (bitChecks s.params buf len bit) s (updateByte buf bit.toNat f s)

theorem mutates_setbit (buf len bit : Word) : Mutates buf len bit (fun _ => true) (.setbit buf len bit) :=
  ⟨_, changesBit_putBit _ true, fun _ => rfl⟩

theorem mutates_setbitv (buf len bit val : Word) :
    Mutates buf len bit (fun _ => decide (val ≠ 0#32)) (.setbitv buf len bit val) :=
  ⟨_, changesBit_putBit _ _, fun _ => rfl⟩

theorem mutates_clearbit (buf len bit : Word) : Mutates buf len bit (fun _ => false) (.clearbit buf len bit) :=
  ⟨_, changesBit_putBit _ false, fun _ => rfl⟩

theorem mutates_flipbit (buf len bit : Word) : Mutates buf len bit (fun b => !b) (.flipbit buf len bit) :=
  ⟨_, changesBit_xor _, fun _ => rfl⟩

/-- From `m` to `m'` bit `i` of the blob at `buf` becomes what `new` says of it, and every other bit of memory stays. -/
structure BitChanged (buf i : Nat) (new : Bool → Bool) (m m' : Memory) : Prop where
  others : ∀ a, a ≠ buf + i / 8 → m'.read a = m.read a
  byte : ∀ k, k < 8 → (m'.read (buf + i / 8)).getLsbD k =
    if k = i % 8 then new ((m.read (buf + i / 8)).getLsbD k) else (m.read (buf + i / 8)).getLsbD k

theorem bitChanged_write {i : Nat} {new : Bool → Bool} {f : Byte → Byte} (hf : ChangesBit i new f) (m : Memory)
    (buf : Nat) : BitChanged buf i new m (m.write (buf + i / 8) (f (m.read (buf + i / 8)))) where
  others _ ha := Memory.read_write_other m _ ha
  byte k hk := by rw [Memory.read_write_same, hf _ k hk]

/-- On an admitted blob and an index inside it, a mutator changes its bit and answers RESULT 0. -/
theorem Mutates.done {buf len bit : Word} {new : Bool → Bool} {i : Instr} (hi : Mutates buf len bit new i)
    {s : State} (h : Admitted s.params buf len) (hbit : bit.toNat < 8 * len.toNat) :
    ∃ m, exec i s = .next ((s.withMem m).deliver ⟨statusDone, 0#64⟩) ∧
      BitChanged buf.toNat bit.toNat new s.mem m := by
  obtain ⟨f, hf, hexec⟩ := hi
  refine ⟨_, ?_, bitChanged_write hf s.mem buf.toNat⟩
  rw [hexec, (bitChecks_eq_none _ _ _ _).2 ⟨h, hbit⟩, guarded_none, updateByte_eq]

theorem Mutates.fault {buf len bit : Word} {new : Bool → Bool} {i : Instr} (hi : Mutates buf len bit new i)
    {s : State} {x : CmdFault} (h : bitChecks s.params buf len bit = some x) :
    exec i s = .next (s.deliver ⟨faultCode x, 0#64⟩) := by
  obtain ⟨f, -, hexec⟩ := hi
  rw [hexec, h, guarded_some, raise_eq]

/-- Settles O31: each of the four is a mutator of its bit, and a mutator faults and completes as stated. -/
theorem mutatorsChangeOneBitOfOneByte : Obligations.MutatorsChangeOneBitOfOneByte := by
  intro buf len bit val s i p new hmem
  have hmutates : encode i = p ∧ Mutates buf len bit new i := by
    simp only [List.mem_cons, List.not_mem_nil, or_false, Prod.mk.injEq] at hmem
    obtain ⟨rfl, rfl, rfl⟩ | ⟨rfl, rfl, rfl⟩ | ⟨rfl, rfl, rfl⟩ | ⟨rfl, rfl, rfl⟩ := hmem
    · exact ⟨rfl, mutates_setbit buf len bit⟩
    · exact ⟨rfl, mutates_setbitv buf len bit val⟩
    · exact ⟨rfl, mutates_clearbit buf len bit⟩
    · exact ⟨rfl, mutates_flipbit buf len bit⟩
  obtain ⟨hencode, hi⟩ := hmutates
  refine ⟨hencode, fun h => ?_, fun h hbit => ?_, fun h hbit => ?_⟩
  · exact hi.fault (bitChecks_of_not_admitted h bit)
  · exact hi.fault (bitChecks_of_index_outside h hbit)
  · obtain ⟨m, hexec, hchanged⟩ := hi.done h hbit
    exact ⟨m, hexec, hchanged.others, hchanged.byte⟩

/-! ### The bit commands on the blob's value (R107) -/

/-- A changed bit among the bits of its blob. -/
theorem BitChanged.bitAt {buf i : Nat} {new : Bool → Bool} {m m' : Memory} (h : BitChanged buf i new m m') (j : Nat) :
    m'.bitAt buf j = if j = i then new (m.bitAt buf j) else m.bitAt buf j := by
  by_cases hbyte : j / 8 = i / 8
  · rw [Memory.bitAt, Memory.bitAt, hbyte, h.byte _ (Nat.mod_lt j (by decide))]
    exact if_congr (by omega) rfl rfl
  · have hne : j ≠ i := fun e => hbyte (by rw [e])
    rw [if_neg hne, Memory.bitAt_congr (h.others _ (by omega))]

/-- The value of the blob after the change is the one with the changed bits. -/
theorem BitChanged.blobValue_eq {buf i len W : Nat} {new : Bool → Bool} {m m' : Memory}
    (h : BitChanged buf i new m m') (hi : i < 8 * len)
    (hW : ∀ j, W.testBit j =
      if j = i then new ((m.blobValue buf len).testBit j) else (m.blobValue buf len).testBit j) :
    m'.blobValue buf len = W := by
  apply Nat.eq_of_testBit_eq
  intro j
  rw [hW j, Memory.testBit_blobValue, Memory.testBit_blobValue, h.bitAt j]
  by_cases hj : j = i
  · simp [hj, hi]
  · simp [hj]

/-- The bits of `2^n - 1 - 2^i`, which stands for `~2^i` in `n` bits (R107). -/
theorem testBit_compl_two_pow {n i : Nat} (hi : i < n) (j : Nat) :
    (2 ^ n - 1 - 2 ^ i).testBit j = (decide (j < n) && decide (i ≠ j)) := by
  rw [Nat.sub_sub, Nat.add_comm, Nat.testBit_two_pow_sub_succ (Nat.pow_lt_pow_right (by decide) hi),
    Nat.testBit_two_pow, decide_not]

theorem BitChanged.blobValue_set {buf i len : Nat} {m m' : Memory} (h : BitChanged buf i (fun _ => true) m m')
    (hi : i < 8 * len) : m'.blobValue buf len = m.blobValue buf len ||| 2 ^ i := by
  refine h.blobValue_eq hi fun j => ?_
  rw [Nat.testBit_or, Nat.testBit_two_pow]
  by_cases hj : j = i
  · simp [hj]
  · simp [hj, Ne.symm hj]

theorem BitChanged.blobValue_clear {buf i len : Nat} {m m' : Memory} (h : BitChanged buf i (fun _ => false) m m')
    (hi : i < 8 * len) : m'.blobValue buf len = m.blobValue buf len &&& (2 ^ (8 * len) - 1 - 2 ^ i) := by
  refine h.blobValue_eq hi fun j => ?_
  rw [Nat.testBit_and, testBit_compl_two_pow hi, Memory.testBit_blobValue]
  by_cases hj : j = i
  · simp [hj]
  · simp [hj, Ne.symm hj, Bool.and_comm]

theorem BitChanged.blobValue_flip {buf i len : Nat} {m m' : Memory} (h : BitChanged buf i (fun b => !b) m m')
    (hi : i < 8 * len) : m'.blobValue buf len = m.blobValue buf len ^^^ 2 ^ i := by
  refine h.blobValue_eq hi fun j => ?_
  rw [Nat.testBit_xor, Nat.testBit_two_pow]
  by_cases hj : j = i
  · simp [hj]
  · simp [hj, Ne.symm hj]

/-- The bit that `setbitv` stores is the bit that `getbit` then returns, and no other bit of the blob changes (R107). -/
theorem getbit_after_setbitv {buf len bit : Word} (val : Word) {s : State} (h : Admitted s.params buf len)
    (hbit : bit.toNat < 8 * len.toNat) :
    ∃ t u, exec (.setbitv buf len bit val) s = .next t ∧ exec (.getbit buf len bit) t = .next u ∧
      u.response = some ⟨statusDone, if val = 0#32 then 0#64 else 1#64⟩ ∧
      ∀ j, j < 8 * len.toNat → j ≠ bit.toNat → t.mem.bitAt buf.toNat j = s.mem.bitAt buf.toNat j := by
  obtain ⟨m, hset, hchanged⟩ := (mutates_setbitv buf len bit val).done h hbit
  refine ⟨_, _, hset, exec_getbit_inside h hbit, ?_, fun j _ hj => ?_⟩
  · have hstored : m.bitAt buf.toNat bit.toNat = decide (val ≠ 0#32) := (hchanged.bitAt _).trans (if_pos rfl)
    simp [hstored, resultOf_toNat]
  · exact (hchanged.bitAt j).trans (if_neg hj)

/-- Settles O32: each mutator's change of one bit, read on the blob's value, and the bit that each read returns. -/
theorem bitCommandsActOnTheBlobValue : Obligations.BitCommandsActOnTheBlobValue := by
  intro buf len bit val s h hbit
  have hlen : 0 < len.toNat := by omega
  refine ⟨getbit_after_setbitv val h hbit, ?_, ?_, ?_, ?_, fun wide => ?_⟩
  · obtain ⟨m, hset, hchanged⟩ := (mutates_setbit buf len bit).done h hbit
    exact ⟨_, hset, hchanged.blobValue_set hbit⟩
  · obtain ⟨m, hclear, hchanged⟩ := (mutates_clearbit buf len bit).done h hbit
    exact ⟨_, hclear, hchanged.blobValue_clear hbit⟩
  · obtain ⟨m, hflip, hchanged⟩ := (mutates_flipbit buf len bit).done h hbit
    exact ⟨_, hflip, hchanged.blobValue_flip hbit⟩
  · rw [exec_getbit_inside h hbit, Memory.bitAt_eq_testBit _ _ hbit]
    rfl
  · rw [exec_getbitw_nonempty h hlen, Memory.bitAt_eq_testBit _ _ (Nat.mod_lt _ (by omega))]
    rfl

end Sys2Proof.Machine

/-! ## PopulationCounter: the counts and parities -/

namespace Sys2Proof.Machine

/-! ### Counts and parities of bits (R120) -/

/-- The sum of the bits of a word is the number of its bits that are 1. -/
theorem pop_toNat {N : Nat} (x : BitVec N) : pop N x.toNat = onesIn N x :=
  (pop_eq_count N x.toNat).trans List.countP_eq_length_filter.symm

theorem onesIn_le {N : Nat} (x : BitVec N) : onesIn N x ≤ N := (pop_toNat x).ge.trans (pop_le N x.toNat)

/-- The exclusive-or of the bits says whether their sum is odd (R126). -/
theorem par_eq_bodd_pop (N u : Nat) : par N u = (pop N u).bodd := by
  induction N with
  | zero => rw [par, pop, Nat.bodd_zero]
  | succ N ih =>
    rw [par, pop, Nat.bodd_add, ih]
    cases u.testBit N <;> rfl

theorem par_toNat {N : Nat} (x : BitVec N) : (par N x.toNat).toNat = onesIn N x % 2 := by
  rw [par_eq_bodd_pop, ← Nat.mod_two_of_bodd, pop_toNat]

/-- The lowest `M + N` bits are the lowest `M` and the `N` above them. -/
theorem pop_add (M N u : Nat) : pop (M + N) u = pop M u + pop N (u >>> M) := by
  induction N with
  | zero => rfl
  | succ N ih => rw [← Nat.add_assoc, pop, pop, ih, Nat.testBit_shiftRight, Nat.add_assoc]

/-- Only the lowest `N` bits count. -/
theorem pop_mod_two_pow (N u : Nat) : pop N (u % 2 ^ N) = pop N u := by
  rw [pop_eq_count, pop_eq_count]
  refine congrArg List.length (List.filter_congr fun i hi => ?_)
  rw [Nat.testBit_mod_two_pow, decide_eq_true (List.mem_range.1 hi), Bool.true_and]

theorem pop_extractLsb' {n : Nat} (x : BitVec n) (start N : Nat) :
    pop N (x.extractLsb' start N).toNat = pop N (x.toNat >>> start) := by
  rw [BitVec.extractLsb'_toNat, pop_mod_two_pow]

/-- The count over two neighbouring fields of a word is the sum of their counts. -/
theorem pop_extractLsb'_add {n : Nat} (x : BitVec n) (M N : Nat) :
    pop (M + N) x.toNat = pop M (x.extractLsb' 0 M).toNat + pop N (x.extractLsb' M N).toNat := by
  rw [pop_add, pop_extractLsb', pop_extractLsb', Nat.shiftRight_zero]

/-! ### What the commands answer (R121 to R125) -/

theorem exec_popcountW32 (x : Word) (s : State) :
    exec (.popcountW32 x) s = .next (s.deliver ⟨statusDone, resultOf (onesIn 32 x)⟩) := by
  rw [exec, execPopcountW32, pop_toNat, complete_eq]

theorem exec_popcountW64 (x : DWord) (s : State) :
    exec (.popcountW64 x) s = .next (s.deliver ⟨statusDone, resultOf (onesIn 64 x)⟩) := by
  rw [exec, execPopcountW64, pop_toNat, complete_eq]

theorem exec_popcountW128 (w0 w1 : DWord) (s : State) :
    exec (.popcountW128 w0 w1) s = .next (s.deliver ⟨statusDone, resultOf (onesIn 64 w0 + onesIn 64 w1)⟩) := by
  rw [exec, execPopcountW128, pop_toNat, pop_toNat, complete_eq]

theorem exec_parityW32 (x : Word) (s : State) :
    exec (.parityW32 x) s = .next (s.deliver ⟨statusDone, resultOf (onesIn 32 x % 2)⟩) := by
  rw [exec, execParityW32, par_toNat, complete_eq]

theorem exec_parityW64 (x : DWord) (s : State) :
    exec (.parityW64 x) s = .next (s.deliver ⟨statusDone, resultOf (onesIn 64 x % 2)⟩) := by
  rw [exec, execParityW64, par_toNat, complete_eq]

/-- Settles O33: the packet of each command, and the answer of each as stated above. -/
theorem countsAndParitiesOfSetBits : Obligations.CountsAndParitiesOfSetBits :=
  fun x y w0 w1 s =>
    ⟨⟨rfl, exec_popcountW32 x s⟩, ⟨rfl, exec_popcountW64 y s⟩, ⟨rfl, exec_popcountW128 w0 w1 s⟩,
      ⟨rfl, exec_parityW32 x s⟩, ⟨rfl, exec_parityW64 y s⟩⟩

/-- The RESULT of a command that completes with a natural below 2^64 is that natural. -/
theorem result_of_done {i : Instr} {s t : State} {r : Response} {v : Nat}
    (hexec : exec i s = .next (s.deliver ⟨statusDone, resultOf v⟩)) (hv : v < 2 ^ 64) (h : exec i s = .next t)
    (hr : t.response = some r) : r.result.toNat = v := by
  rw [hexec, Host.Outcome.next.injEq] at h
  obtain rfl : _ = r := Option.some.inj (h ▸ hr)
  exact toNat_resultOf hv

/-- Settles O34: both RESULTs are exact, for a count of at most 64 bits and its residue fit in RESULT. -/
theorem parityIsPopulationCountModTwo : Obligations.ParityIsPopulationCountModTwo := by
  constructor
  · intro x s t u p q hpar hpop hp hq
    have hle := onesIn_le x
    rw [result_of_done (exec_parityW32 x s) (by omega) hpar hp,
      result_of_done (exec_popcountW32 x s) (by omega) hpop hq]
  · intro x s t u p q hpar hpop hp hq
    have hle := onesIn_le x
    rw [result_of_done (exec_parityW64 x s) (by omega) hpar hp,
      result_of_done (exec_popcountW64 x s) (by omega) hpop hq]

/-- Settles O35: the halves are neighbouring fields, and a sum is odd when exactly one of its terms is. -/
theorem wideCountsAddTheirHalves : Obligations.WideCountsAddTheirHalves := by
  intro x
  have hpop := pop_extractLsb'_add x 32 32
  refine ⟨hpop, ?_⟩
  rw [par_eq_bodd_pop, par_eq_bodd_pop, par_eq_bodd_pop, hpop, Nat.bodd_add]

end Sys2Proof.Machine

/-! ## Shifts: the value shifts, the blob shifts and the strategies in place -/

namespace Sys2Proof.Machine

/-! ### The bits of a shift (R13) -/

/-- The reference function of the left shifts and that of the right shifts (R13). -/
def shiftBy : Bool → Nat → Nat → Nat → Nat
  | true => shl
  | false => shr

/-- Bit `k` of `n` bits `b` shifted by `a`: the bit `a` places below it (left) or above it (right), 0 if there is none. -/
def shiftedBit (left : Bool) (n a : Nat) (b : Nat → Bool) (k : Nat) : Bool :=
  if left then decide (a ≤ k) && b (k - a) else decide (k + a < n) && b (k + a)

theorem shiftedBit_left (n a : Nat) (b : Nat → Bool) (k : Nat) :
    shiftedBit true n a b k = (decide (a ≤ k) && b (k - a)) := rfl

theorem shiftedBit_right (n a : Nat) (b : Nat → Bool) (k : Nat) :
    shiftedBit false n a b k = (decide (k + a < n) && b (k + a)) := rfl

/-- Only the bits that exist are looked at. -/
theorem shiftedBit_congr {left : Bool} {n a k : Nat} {b b' : Nat → Bool} (h : ∀ i, i < n → b i = b' i) (hk : k < n) :
    shiftedBit left n a b k = shiftedBit left n a b' k := by
  cases left
  · rw [shiftedBit_right, shiftedBit_right]
    by_cases hin : k + a < n
    · rw [h _ hin]
    · simp [hin]
  · rw [shiftedBit_left, shiftedBit_left, h _ (by omega)]

/-- A shift by the width or more leaves no bit. -/
theorem shiftedBit_of_le {left : Bool} {n a k : Nat} (b : Nat → Bool) (ha : n ≤ a) (hk : k < n) :
    shiftedBit left n a b k = false := by
  cases left
  · simp [shiftedBit_right, show ¬ k + a < n by omega]
  · simp [shiftedBit_left, show ¬ a ≤ k by omega]

theorem testBit_shiftBy (left : Bool) {V n : Nat} (hV : V < 2 ^ n) (a k : Nat) :
    (shiftBy left V n a).testBit k = (decide (k < n) && shiftedBit left n a V.testBit k) := by
  cases left
  · rw [shiftBy, testBit_shr hV, shiftedBit_right]
    by_cases hin : k + a < n
    · simp [hin, show k < n by omega]
    · simp [hin]
  · rw [shiftBy, testBit_shl, shiftedBit_left, Bool.and_left_comm, Bool.and_assoc]

theorem shl_shl (V n a b : Nat) : shl (shl V n a) n b = shl V n (a + b) := by
  apply Nat.eq_of_testBit_eq
  intro i
  rw [testBit_shl, testBit_shl, testBit_shl, Nat.sub_sub, Nat.add_comm b a]
  have hrange : (decide (b ≤ i) && (decide (i < n) && (decide (a ≤ i - b) && decide (i - b < n)))) =
      (decide (a + b ≤ i) && decide (i < n)) := by
    simp only [← Bool.decide_and, decide_eq_decide]
    omega
  simpa only [Bool.and_assoc] using congrArg (· && V.testBit (i - (a + b))) hrange

theorem shr_shr {V n : Nat} (hV : V < 2 ^ n) (a b : Nat) : shr (shr V n a) n b = shr V n (a + b) := by
  apply Nat.eq_of_testBit_eq
  intro i
  rw [testBit_shr (shr_lt hV a), testBit_shr hV, testBit_shr hV, Nat.add_right_comm, Nat.add_assoc i a b]
  by_cases h : i + (a + b) < n
  · simp [h, show i + b < n by omega]
  · simp [h]

/-- The top `a` bits are lost on the way. -/
theorem shr_shl (V n a : Nat) : shr (shl V n a) n a = V % 2 ^ (n - a) := by
  apply Nat.eq_of_testBit_eq
  intro i
  rw [testBit_shr (shl_lt V n a), testBit_shl, Nat.testBit_mod_two_pow, Nat.add_sub_cancel]
  by_cases h : i + a < n
  · simp [h, show i < n - a by omega]
  · simp [h, show ¬ i < n - a by omega]

/-- Settles O38: the three laws, bit by bit. -/
theorem shiftsCompose : Obligations.ShiftsCompose :=
  fun V n a b hV => ⟨shl_shl V n a b, shr_shr hV a b, fun _ => shr_shl V n a⟩

/-! ### The value shifts (R151 to R154) -/

/-- The command is the value shift of the `N` bits of `x` by the amount `c`. -/
def ShiftsValue (N : Nat) (left : Bool) (x : Nat) (c : Word) (i : Instr) : Prop :=
  ∀ s, exec i s = shiftValue N (shiftBy left) x c s

theorem ShiftsValue.fault {N x : Nat} {left : Bool} {c : Word} {i : Instr} (hi : ShiftsValue N left x c i)
    (hc : amount c < 0) (s : State) : exec i s = .next (s.deliver ⟨faultCode .badAmount, 0#64⟩) := by
  obtain ⟨-, h⟩ | ⟨hpos, -⟩ := shiftValue_cases N (shiftBy left) x c s
  · rw [hi, h, raise_eq]
  · omega

theorem ShiftsValue.done {N x : Nat} {left : Bool} {c : Word} {i : Instr} (hi : ShiftsValue N left x c i)
    (hc : 0 ≤ amount c) (s : State) :
    exec i s = .next (s.deliver ⟨statusDone, resultOf (shiftBy left x N (amount c).toNat)⟩) := by
  obtain ⟨hneg, -⟩ | ⟨-, h⟩ := shiftValue_cases N (shiftBy left) x c s
  · omega
  · rw [hi, h]

/-- RESULT holds the low 64 bits of a natural. -/
theorem getLsbD_resultOf (v : Nat) {k : Nat} (hk : k < 64) : (resultOf v).getLsbD k = v.testBit k := by
  rw [resultOf, BitVec.getLsbD_ofNat, decide_eq_true hk, Bool.true_and]

/-- The bit of a shift by an amount that is not negative, in the form of the statements. -/
theorem shiftedBit_amount {c : Word} (hc : 0 ≤ c.toInt) (left : Bool) (n : Nat) (b : Nat → Bool) (k : Nat) :
    shiftedBit left n (amount c).toNat b k =
      if left then decide (c.toInt ≤ k) && b (k - c.toInt.toNat)
      else decide (k + c.toInt < n) && b (k + c.toInt.toNat) := by
  obtain ⟨a, ha⟩ := Int.eq_ofNat_of_zero_le hc
  simp only [shiftedBit, amount, ha, Int.toNat_natCast, Nat.cast_le, ← Nat.cast_add, Nat.cast_lt]

/-- Settles O37: each of the four is a value shift, and the bits of its RESULT are those of the reference function. -/
theorem valueShiftsMoveEveryBit : Obligations.ValueShiftsMoveEveryBit := by
  intro x z c s i p N v left hmem
  have hshift : encode i = p ∧ ∃ y : BitVec N, v = y.getLsbD ∧ ShiftsValue N left y.toNat c i := by
    simp only [List.mem_cons, List.not_mem_nil, or_false, Prod.mk.injEq] at hmem
    obtain ⟨rfl, rfl, rfl, rfl, rfl⟩ | ⟨rfl, rfl, rfl, rfl, rfl⟩ | ⟨rfl, rfl, rfl, rfl, rfl⟩ |
      ⟨rfl, rfl, rfl, rfl, rfl⟩ := hmem
    · exact ⟨rfl, z, rfl, fun _ => rfl⟩
    · exact ⟨rfl, z, rfl, fun _ => rfl⟩
    · exact ⟨rfl, x, rfl, fun _ => rfl⟩
    · exact ⟨rfl, x, rfl, fun _ => rfl⟩
  obtain ⟨hencode, y, rfl, hi⟩ := hshift
  refine ⟨hencode, fun hc => hi.fault hc s, fun hc => ⟨_, hi.done hc s, fun k hk => ?_⟩⟩
  rw [getLsbD_resultOf _ hk, testBit_shiftBy left y.isLt, shiftedBit_amount hc]
  rfl

/-! ### The blob shifts (R140 to R147, R221, R222) -/

/-- From `m` to `m'` the blob gets the bits `bits` and every byte outside it stays. -/
structure BlobSet (buf len : Nat) (bits : Nat → Bool) (m m' : Memory) : Prop where
  outside : SameOutside buf len m m'
  bitAt : ∀ k, k < 8 * len → m'.bitAt buf k = bits k

/-- The bits of the blob and the bytes outside it are the whole memory. -/
theorem BlobSet.read_eq {buf len : Nat} {bits : Nat → Bool} {m m₁ m₂ : Memory} (h₁ : BlobSet buf len bits m m₁)
    (h₂ : BlobSet buf len bits m m₂) (a : Nat) : m₁.read a = m₂.read a := by
  by_cases hin : buf ≤ a ∧ a < buf + len
  · obtain ⟨k, rfl⟩ := Nat.exists_eq_add_of_le hin.1
    exact Memory.read_eq_of_bitAt fun j hj => by rw [h₁.bitAt _ (by omega), h₂.bitAt _ (by omega)]
  · rw [h₁.outside a (by omega), h₂.outside a (by omega)]

theorem blobSet_setBlob (m : Memory) (buf len V : Nat) : BlobSet buf len V.testBit m (m.setBlob buf len V) where
  outside a ha := by rw [Memory.read_setBlob, if_neg (by omega)]
  bitAt k hk := Memory.bitAt_setBlob m buf len V k hk

/-- The reference function on the value of the blob moves the bits of the blob (R140). -/
theorem blobSet_shiftBy (left : Bool) (m : Memory) (buf len a : Nat) :
    BlobSet buf len (shiftedBit left (8 * len) a (m.bitAt buf)) m
      (m.setBlob buf len (shiftBy left (m.blobValue buf len) (8 * len) a)) where
  outside := (blobSet_setBlob m buf len _).outside
  bitAt k hk := by
    rw [Memory.bitAt_setBlob m buf len _ k hk, testBit_shiftBy left (m.blobValue_lt buf len), decide_eq_true hk,
      Bool.true_and]
    exact shiftedBit_congr (fun i hi => (m.bitAt_eq_testBit buf hi).symm) hk

/-- Zeros are what an amount of the width or more leaves (R13). -/
theorem blobSet_zeroBlob (left : Bool) (m : Memory) (buf len : Nat) {c : Nat} (hc : 8 * len ≤ c) :
    BlobSet buf len (shiftedBit left (8 * len) c (m.bitAt buf)) m (zeroBlob m buf len) where
  outside a ha := by rw [zeroBlob, Memory.read_fill, if_neg (by omega)]
  bitAt k hk := by
    rw [shiftedBit_of_le _ hc hk, zeroBlob, Memory.bitAt, Memory.read_fill, if_pos (by omega)]
    simp

theorem shiftChecks_of_not_admitted {p : Params} {buf len : Word} (h : ¬ Admitted p buf len) (g : Gran) (c : Word) :
    shiftChecks p g buf len c = some .badLen := firstFault_of_not_admitted h _

theorem shiftChecks_of_bad_length {p : Params} {buf len : Word} (h : Admitted p buf len)
    (hlen : len.toNat % 4 ≠ 0) (c : Word) : shiftChecks p .g32 buf len c = some .badGran := by
  rw [shiftChecks, firstFault_of_admitted h, granCheck, faultIf, if_pos ⟨rfl, hlen⟩, firstFault_some]

theorem shiftChecks_of_negative {p : Params} {g : Gran} {buf len c : Word} (h : Admitted p buf len)
    (hlen : g = .g32 → len.toNat % 4 = 0) (hc : amount c < 0) : shiftChecks p g buf len c = some .badAmount := by
  rw [shiftChecks, firstFault_of_admitted h, granCheck, (faultIf_eq_none _ _).2 fun ⟨hg, hne⟩ => hne (hlen hg),
    firstFault_none, amountCheck, faultIf, if_pos hc, firstFault_some]

/-- The command is the blob shift of granularity `g` by the amount `c`. -/
def ShiftsBlob (g : Gran) (left : Bool) (buf len c : Word) (i : Instr) : Prop :=
  ∀ s, exec i s = shiftBlob g (shiftBy left) buf len c s

section
variable {g : Gran} {left : Bool} {buf len c : Word} {i : Instr}

theorem ShiftsBlob.fault (hi : ShiftsBlob g left buf len c i) {s : State} {x : CmdFault}
    (h : shiftChecks s.params g buf len c = some x) : exec i s = .next (s.deliver ⟨faultCode x, 0#64⟩) := by
  rw [hi, shiftBlob, h, guarded_some, raise_eq]

/-- A blob shift whose checks find nothing moves the bits of the blob and answers RESULT 0. -/
theorem ShiftsBlob.done (hi : ShiftsBlob g left buf len c i) {s : State} (h : Admitted s.params buf len)
    (hlen : g = .g32 → len.toNat % 4 = 0) (hc : 0 ≤ amount c) :
    ∃ m, exec i s = .next ((s.withMem m).deliver ⟨statusDone, 0#64⟩) ∧
      BlobSet buf.toNat len.toNat
        (shiftedBit left (8 * len.toNat) (amount c).toNat (s.mem.bitAt buf.toNat)) s.mem m := by
  refine ⟨_, ?_, blobSet_shiftBy left s.mem buf.toNat len.toNat (amount c).toNat⟩
  rw [hi, shiftBlob, (shiftChecks_eq_none _ _ _ _ _).2 ⟨h, hlen, hc⟩, guarded_none, complete_eq]

end

/-- Settles O36: each of the eight is a blob shift of the granularity in its `W[0]`, and a blob shift faults and
completes as stated. -/
theorem blobShiftsMoveEveryBit : Obligations.BlobShiftsMoveEveryBit := by
  intro buf len c s i w left hmem
  have hshift : encode i = ⟨w, buf, len, c, 0#32⟩ ∧
      ∃ g, (w.extractLsb' 8 2 = 3#2 ↔ g = .g32) ∧ ShiftsBlob g left buf len c i := by
    simp only [List.mem_cons, List.not_mem_nil, or_false, Prod.mk.injEq] at hmem
    obtain ⟨rfl, rfl, rfl⟩ | ⟨rfl, rfl, rfl⟩ | ⟨rfl, rfl, rfl⟩ | ⟨rfl, rfl, rfl⟩ | ⟨rfl, rfl, rfl⟩ |
      ⟨rfl, rfl, rfl⟩ | ⟨rfl, rfl, rfl⟩ | ⟨rfl, rfl, rfl⟩ := hmem
    · exact ⟨rfl, .auto, by decide, fun _ => rfl⟩
    · exact ⟨rfl, .g1, by decide, fun _ => rfl⟩
    · exact ⟨rfl, .g8, by decide, fun _ => rfl⟩
    · exact ⟨rfl, .g32, by decide, fun _ => rfl⟩
    · exact ⟨rfl, .auto, by decide, fun _ => rfl⟩
    · exact ⟨rfl, .g1, by decide, fun _ => rfl⟩
    · exact ⟨rfl, .g8, by decide, fun _ => rfl⟩
    · exact ⟨rfl, .g32, by decide, fun _ => rfl⟩
  obtain ⟨hencode, g, hg, hi⟩ := hshift
  simp only [hg]
  refine ⟨hencode, fun h => ?_, ?_, fun h hlen hc => ?_, fun h hlen hc => ?_⟩
  · exact hi.fault (shiftChecks_of_not_admitted h g c)
  · rintro h rfl hlen
    exact hi.fault (shiftChecks_of_bad_length h hlen c)
  · exact hi.fault (shiftChecks_of_negative h hlen hc)
  · obtain ⟨m, hexec, hset⟩ := hi.done h hlen hc
    exact ⟨m, hexec, hset.outside, fun k hk => (hset.bitAt k hk).trans (shiftedBit_amount hc left _ _ k)⟩

/-! ### Loops in place (R148)

A strategy replaces the blob unit by unit, a unit being a bit, a byte or a word. Each unit is computed from the memory
of that moment, so the direction of the loop decides whether the bits it looks at are still those of the start. -/

/-- Pass `j < N` replaces unit `j`, of `w` bits, by the bits that `new` makes of the blob it finds, and writes nothing
else. -/
structure ReplacesUnits (buf len w N : Nat) (new : (Nat → Bool) → Nat → Bool)
    (body : Nat → Memory → Memory) : Prop where
  covers : 8 * len = w * N
  bitAt : ∀ j, j < N → ∀ m k,
    (body j m).bitAt buf k = if k / w = j then new (m.bitAt buf) k else m.bitAt buf k
  outside : ∀ j, j < N → ∀ m, SameOutside buf len m (body j m)

section
variable {buf len w N n c : Nat} {new : (Nat → Bool) → Nat → Bool} {body : Nat → Memory → Memory}

theorem ReplacesUnits.div_lt (h : ReplacesUnits buf len w N new body) {k : Nat} (hk : k < 8 * len) : k / w < N :=
  Nat.div_lt_of_lt_mul (h.covers ▸ hk)

theorem ReplacesUnits.loopDown_outside (h : ReplacesUnits buf len w N new body) (m : Memory) :
    SameOutside buf len m (loopDown body N m) :=
  loopDown_invariant (P := SameOutside buf len m)
    (fun j _ hj hm a ha => (h.outside j hj _ a ha).trans (hm a ha)) fun _ _ => rfl

theorem ReplacesUnits.loopUp_outside (h : ReplacesUnits buf len w N new body) (m : Memory) :
    SameOutside buf len m (loopUp body N m) :=
  loopUp_invariant (P := SameOutside buf len m)
    (fun j _ hj hm a ha => (h.outside j hj _ a ha).trans (hm a ha)) fun _ _ => rfl

/-- From the highest unit down, the bits below a unit are still the old ones when it is replaced. -/
theorem ReplacesUnits.bitAt_loopDown (h : ReplacesUnits buf len w N (shiftedBit true n c) body) {M : Nat}
    (hM : M ≤ N) (m : Memory) (k : Nat) :
    (loopDown body M m).bitAt buf k = if k / w < M then shiftedBit true n c (m.bitAt buf) k else m.bitAt buf k := by
  induction M generalizing m with
  | zero => simp [loopDown]
  | succ M ih =>
    have hpass := h.bitAt M (by omega) m
    rw [loopDown, ih (by omega)]
    by_cases hk : k / w < M
    · have hsource : (k - c) / w ≤ k / w := Nat.div_le_div_right (Nat.sub_le k c)
      rw [if_pos hk, if_pos (by omega), shiftedBit_left, shiftedBit_left, hpass, if_neg (by omega)]
    · rw [if_neg hk, hpass]
      exact if_congr (by omega) rfl rfl

/-- From the lowest unit up, the bits above a unit are still the old ones when it is replaced. -/
theorem ReplacesUnits.bitAt_loopUp (h : ReplacesUnits buf len w N (shiftedBit false n c) body) {M : Nat}
    (hM : M ≤ N) (m : Memory) (k : Nat) :
    (loopUp body M m).bitAt buf k = if k / w < M then shiftedBit false n c (m.bitAt buf) k else m.bitAt buf k := by
  induction M generalizing k with
  | zero => simp [loopUp]
  | succ M ih =>
    rw [loopUp, h.bitAt M (by omega)]
    by_cases hk : k / w = M
    · have hsource : k / w ≤ (k + c) / w := Nat.div_le_div_right (Nat.le_add_right k c)
      rw [if_pos hk, if_pos (by omega), shiftedBit_right, shiftedBit_right, ih (by omega), if_neg (by omega)]
    · rw [if_neg hk, ih (by omega)]
      exact if_congr (by omega) rfl rfl

/-- A left shift in place: zeros for an amount of the width or more, else the units from the highest down. -/
theorem ReplacesUnits.blobSet_left (h : ReplacesUnits buf len w N (shiftedBit true (8 * len) c) body) (m : Memory) :
    BlobSet buf len (shiftedBit true (8 * len) c (m.bitAt buf)) m
      (if c ≥ 8 * len then zeroBlob m buf len else loopDown body N m) := by
  split
  · next hc => exact blobSet_zeroBlob true m buf len hc
  · exact ⟨h.loopDown_outside m, fun k hk => (h.bitAt_loopDown le_rfl m k).trans (if_pos (h.div_lt hk))⟩

/-- A right shift in place: zeros for an amount of the width or more, else the units from the lowest up. -/
theorem ReplacesUnits.blobSet_right (h : ReplacesUnits buf len w N (shiftedBit false (8 * len) c) body) (m : Memory) :
    BlobSet buf len (shiftedBit false (8 * len) c (m.bitAt buf)) m
      (if c ≥ 8 * len then zeroBlob m buf len else loopUp body N m) := by
  split
  · next hc => exact blobSet_zeroBlob false m buf len hc
  · exact ⟨h.loopUp_outside m, fun k hk => (h.bitAt_loopUp le_rfl m k).trans (if_pos (h.div_lt hk))⟩

end

/-! ### Units: a bit, a byte, a word -/

theorem Memory.bitAt_write (m : Memory) (buf j k : Nat) (v : Byte) :
    (m.write (buf + j) v).bitAt buf k = if k / 8 = j then v.getLsbD (k % 8) else m.bitAt buf k := by
  unfold Memory.bitAt
  rw [Memory.read_write]
  simp only [Nat.add_left_cancel_iff]
  split <;> rfl

theorem Memory.bitAt_writeWord (m : Memory) (buf j k : Nat) (v : Word) :
    (m.writeWord (buf + 4 * j) v).bitAt buf k = if k / 32 = j then v.getLsbD (k % 32) else m.bitAt buf k := by
  unfold Memory.bitAt
  rw [Memory.read_writeWord]
  by_cases hk : k / 32 = j
  · rw [if_pos (by omega), if_pos hk, BitVec.getLsbD_extractLsb', decide_eq_true (Nat.mod_lt k (by decide)),
      Bool.true_and]
    congr 1
    omega
  · rw [if_neg (by omega), if_neg hk]

/-- A loop of `setBitAt` over the bits of the blob (R142, R143). -/
theorem replacesUnits_setBitAt (buf len : Nat) {new : (Nat → Bool) → Nat → Bool} :
    ReplacesUnits buf len 1 (8 * len) new (fun i m => m.setBitAt buf i (new (m.bitAt buf) i)) where
  covers := (Nat.one_mul _).symm
  outside j hj m a ha := Memory.read_setBitAt_other m buf j _ (by omega)
  bitAt j _ m k := by
    rw [Memory.bitAt_setBitAt, Nat.div_one]
    exact if_ctx_congr Iff.rfl (fun hk => by rw [hk]) fun _ => rfl

/-- A loop of byte writes over the blob (R144, R145). -/
theorem replacesUnits_write (buf len : Nat) {new : (Nat → Bool) → Nat → Bool} {v : Nat → Memory → Byte}
    (hv : ∀ j m i, i < 8 → (v j m).getLsbD i = new (m.bitAt buf) (8 * j + i)) :
    ReplacesUnits buf len 8 len new (fun j m => m.write (buf + j) (v j m)) where
  covers := rfl
  outside j hj m a ha := Memory.read_write_other m _ (by omega)
  bitAt j _ m k := by
    rw [Memory.bitAt_write]
    refine if_ctx_congr Iff.rfl (fun hk => ?_) fun _ => rfl
    rw [hv _ _ _ (Nat.mod_lt k (by decide)), ← hk, Nat.div_add_mod]

/-- A loop of word writes over a blob that is made of words (R146, R147). -/
theorem replacesUnits_writeWord (buf : Nat) {len : Nat} (hlen : len % 4 = 0) {new : (Nat → Bool) → Nat → Bool}
    {v : Nat → Memory → Word} (hv : ∀ j m i, i < 32 → (v j m).getLsbD i = new (m.bitAt buf) (32 * j + i)) :
    ReplacesUnits buf len 32 (len / 4) new (fun j m => m.writeWord (buf + 4 * j) (v j m)) where
  covers := by omega
  outside j hj m a ha := by rw [Memory.read_writeWord, if_neg (by omega)]
  bitAt j _ m k := by
    rw [Memory.bitAt_writeWord]
    refine if_ctx_congr Iff.rfl (fun hk => ?_) fun _ => rfl
    rw [hv _ _ _ (Nat.mod_lt k (by decide)), ← hk, Nat.div_add_mod]

/-- Bit `i` of a byte inside the blob, 0 past it. -/
theorem getLsbD_byteOr0 (m : Memory) (buf k : Nat) (inside : Prop) [Decidable inside] {i : Nat} (hi : i < 8) :
    (byteOr0 m buf k inside).getLsbD i = (decide inside && m.bitAt buf (8 * k + i)) := by
  rw [Memory.bitAt_eq m buf k i hi, byteOr0]
  by_cases h : inside <;> simp [h]

/-- A word inside the blob is 32 of its bits (R42). -/
theorem Memory.bitAt_eq_readWord (m : Memory) (buf j : Nat) {i : Nat} (hi : i < 32) :
    m.bitAt buf (32 * j + i) = (m.readWord (buf + 4 * j)).getLsbD i := by
  rw [Memory.getLsbD_readWord _ _ _ hi, Memory.bitAt, show (32 * j + i) / 8 = 4 * j + i / 8 by omega,
    show (32 * j + i) % 8 = i % 8 by omega, Nat.add_assoc]

/-- Bit `i` of a word inside the blob, 0 past it. -/
theorem getLsbD_wordOr0 (m : Memory) (buf j : Nat) (inside : Prop) [Decidable inside] {i : Nat} (hi : i < 32) :
    (wordOr0 m buf j inside).getLsbD i = (decide inside && m.bitAt buf (32 * j + i)) := by
  rw [Memory.bitAt_eq_readWord m buf j hi, wordOr0]
  by_cases h : inside <;> simp [h]

/-- In units of `w` bits: the bit `c` places below bit `k`, when that is bit `o` of unit `j - q`. -/
theorem shiftedBit_left_of_source {w c k j q o : Nat} (n : Nat) (b : Nat → Bool) (h : k + w * q = c + (w * j + o))
    (ho : o < w) : shiftedBit true n c b k = (decide (q ≤ j) && b (w * (j - q) + o)) := by
  rw [shiftedBit_left]
  by_cases hj : q ≤ j
  · obtain ⟨d, rfl⟩ := Nat.exists_eq_add_of_le hj
    rw [Nat.mul_add] at h
    rw [decide_eq_true hj, decide_eq_true (by omega), Nat.add_sub_cancel_left]
    congr 2
    omega
  · have hunit : w * (j + 1) ≤ w * q := Nat.mul_le_mul_left w (by omega)
    rw [Nat.mul_add] at hunit
    rw [decide_eq_false hj, decide_eq_false (by omega), Bool.false_and, Bool.false_and]

/-- In units of `w` bits: the bit `c` places above bit `k`, when that is bit `o` of unit `p`. -/
theorem shiftedBit_right_of_source {w c k p o : Nat} (N : Nat) (b : Nat → Bool) (h : k + c = w * p + o) (ho : o < w) :
    shiftedBit false (w * N) c b k = (decide (p < N) && b (w * p + o)) := by
  have hin : w * p + o < w * N ↔ p < N := by
    constructor
    · exact fun hlt => Nat.lt_of_mul_lt_mul_left (Nat.lt_of_le_of_lt (Nat.le_add_right _ _) hlt)
    · intro hp
      have hunit : w * (p + 1) ≤ w * N := Nat.mul_le_mul_left w hp
      rw [Nat.mul_add] at hunit
      omega
  rw [shiftedBit_right, h, decide_eq_decide.2 hin]

/-- Unit `j` of a left shift by `c`, from unit `j - c / w` and the one below it (R144, R146). -/
theorem getLsbD_leftUnit {w c j i : Nat} (n : Nat) {b : Nat → Bool} {x y : BitVec w}
    (hx : ∀ i, i < w → x.getLsbD i = (decide (c / w ≤ j) && b (w * (j - c / w) + i)))
    (hy : ∀ i, i < w → y.getLsbD i = (decide (c / w + 1 ≤ j) && b (w * (j - c / w - 1) + i))) (hi : i < w) :
    ((x <<< (c % w)) ||| (y >>> (w - c % w))).getLsbD i = shiftedBit true n c b (w * j + i) := by
  have hc : w * (c / w) + c % w = c := Nat.div_add_mod c w
  have hr : c % w < w := Nat.mod_lt c (by omega)
  rw [BitVec.getLsbD_or, BitVec.getLsbD_shiftLeft, BitVec.getLsbD_ushiftRight]
  by_cases hri : c % w ≤ i
  · rw [BitVec.getLsbD_of_ge y _ (by omega), hx _ (by omega),
      shiftedBit_left_of_source (w := w) (j := j) (q := c / w) (o := i - c % w) n b (by omega) (by omega)]
    simp [hi, hri]
  · rw [hy _ (by omega), Nat.sub_sub, shiftedBit_left_of_source (w := w) (j := j) (q := c / w + 1)
      (o := w - c % w + i) n b (by rw [Nat.mul_add]; omega) (by omega)]
    simp [hri]

/-- Unit `j` of a right shift by `c` of `N` units, from unit `j + c / w` and the one above it (R145, R147). -/
theorem getLsbD_rightUnit {w c j i : Nat} (N : Nat) {b : Nat → Bool} {x y : BitVec w}
    (hx : ∀ i, i < w → x.getLsbD i = (decide (j + c / w < N) && b (w * (j + c / w) + i)))
    (hy : ∀ i, i < w → y.getLsbD i = (decide (j + c / w + 1 < N) && b (w * (j + c / w + 1) + i))) (hi : i < w) :
    ((x >>> (c % w)) ||| (y <<< (w - c % w))).getLsbD i = shiftedBit false (w * N) c b (w * j + i) := by
  have hc : w * (c / w) + c % w = c := Nat.div_add_mod c w
  have hr : c % w < w := Nat.mod_lt c (by omega)
  rw [BitVec.getLsbD_or, BitVec.getLsbD_shiftLeft, BitVec.getLsbD_ushiftRight]
  by_cases hri : c % w + i < w
  · rw [hx _ hri, shiftedBit_right_of_source (p := j + c / w) (o := c % w + i) N b (by rw [Nat.mul_add]; omega) hri]
    simp [show i < w - c % w by omega]
  · rw [BitVec.getLsbD_of_ge x _ (by omega), hy _ (by omega), shiftedBit_right_of_source (p := j + c / w + 1)
      (o := i - (w - c % w)) N b (by rw [Nat.mul_add, Nat.mul_add]; omega) (by omega)]
    simp [hi, show ¬ i < w - c % w by omega]

/-! ### The strategies (R142 to R147) -/

/-- A downward loop is its upper part, then its lower part. -/
theorem loopDown_add (body : Nat → Memory → Memory) (a b : Nat) (m : Memory) :
    loopDown body (a + b) m = loopDown body a (loopDown (fun j => body (a + j)) b m) := by
  induction b generalizing m with
  | zero => rfl
  | succ b ih => exact ih (body (a + b) m)

/-- An upward loop is its lower part, then its upper part. -/
theorem loopUp_add (body : Nat → Memory → Memory) (a b : Nat) (m : Memory) :
    loopUp body (a + b) m = loopUp (fun j => body (a + j)) b (loopUp body a m) := by
  induction b with
  | zero => rfl
  | succ b ih => exact congrArg (body (a + b)) ih

theorem loopDown_congr {body body' : Nat → Memory → Memory} {k : Nat}
    (h : ∀ i, i < k → ∀ m, body i m = body' i m) (m : Memory) : loopDown body k m = loopDown body' k m := by
  induction k generalizing m with
  | zero => rfl
  | succ k ih => rw [loopDown, loopDown, h k (by omega), ih fun i hi => h i (by omega)]

theorem loopUp_congr {body body' : Nat → Memory → Memory} {k : Nat}
    (h : ∀ i, i < k → ∀ m, body i m = body' i m) (m : Memory) : loopUp body k m = loopUp body' k m := by
  induction k with
  | zero => rfl
  | succ k ih => rw [loopUp, loopUp, ih fun i hi => h i (by omega), h k (by omega)]

/-- The two loops of R142 are one over all bits: it moves the bits from `c` on and clears those below. -/
theorem lshiftByBits_eq (m : Memory) (buf len c : Nat) :
    lshiftByBits m buf len c =
      if c ≥ 8 * len then zeroBlob m buf len
      else loopDown (fun i m => m.setBitAt buf i (shiftedBit true (8 * len) c (m.bitAt buf) i)) (8 * len) m := by
  refine if_ctx_congr Iff.rfl (fun _ => rfl) fun hc => ?_
  obtain ⟨d, hd⟩ := Nat.exists_eq_add_of_le (Nat.le_of_not_ge hc)
  rw [hd, loopDown_add, Nat.add_sub_cancel_left]
  refine (loopDown_congr (fun i hi m => ?cleared) _).trans (congrArg _ (loopDown_congr (fun j _ m => ?moved) m))
  case moved => simp [shiftedBit_left]
  case cleared => simp [shiftedBit_left, show ¬ c ≤ i by omega]

/-- The two loops of R143 are one over all bits: it moves the bits from `c` on down and clears the top `c`. -/
theorem rshiftByBits_eq (m : Memory) (buf len c : Nat) :
    rshiftByBits m buf len c =
      if c ≥ 8 * len then zeroBlob m buf len
      else loopUp (fun i m => m.setBitAt buf i (shiftedBit false (8 * len) c (m.bitAt buf) i)) (8 * len) m := by
  refine if_ctx_congr Iff.rfl (fun _ => rfl) fun hc => ?_
  obtain ⟨d, hd⟩ := Nat.exists_eq_add_of_le' (Nat.le_of_not_ge hc)
  rw [hd, loopUp_add, Nat.add_sub_cancel]
  refine (loopUp_congr (fun j _ m => ?cleared) _).trans (congrArg _ (loopUp_congr (fun i hi m => ?moved) m))
  case moved => simp [shiftedBit_right, hi]
  case cleared => simp [shiftedBit_right, show ¬ d + j + c < d + c by omega]

section
variable (m : Memory) (buf len c : Nat)

theorem blobSet_lshiftByBits :
    BlobSet buf len (shiftedBit true (8 * len) c (m.bitAt buf)) m (lshiftByBits m buf len c) :=
  lshiftByBits_eq m buf len c ▸ (replacesUnits_setBitAt buf len).blobSet_left m

theorem blobSet_rshiftByBits :
    BlobSet buf len (shiftedBit false (8 * len) c (m.bitAt buf)) m (rshiftByBits m buf len c) :=
  rshiftByBits_eq m buf len c ▸ (replacesUnits_setBitAt buf len).blobSet_right m

theorem blobSet_lshiftByBytes :
    BlobSet buf len (shiftedBit true (8 * len) c (m.bitAt buf)) m (lshiftByBytes m buf len c) :=
  (replacesUnits_write buf len fun _ m _ hi => getLsbD_leftUnit (8 * len)
    (fun _ => getLsbD_byteOr0 m buf _ _) (fun _ => getLsbD_byteOr0 m buf _ _) hi).blobSet_left m

theorem blobSet_rshiftByBytes :
    BlobSet buf len (shiftedBit false (8 * len) c (m.bitAt buf)) m (rshiftByBytes m buf len c) :=
  (replacesUnits_write buf len fun _ m _ hi => getLsbD_rightUnit len
    (fun _ => getLsbD_byteOr0 m buf _ _) (fun _ => getLsbD_byteOr0 m buf _ _) hi).blobSet_right m

variable {len}

theorem blobSet_lshiftByWords (hlen : len % 4 = 0) :
    BlobSet buf len (shiftedBit true (8 * len) c (m.bitAt buf)) m (lshiftByWords m buf len c) :=
  (replacesUnits_writeWord buf hlen fun _ m _ hi => getLsbD_leftUnit (8 * len)
    (fun _ => getLsbD_wordOr0 m buf _ _) (fun _ => getLsbD_wordOr0 m buf _ _) hi).blobSet_left m

theorem blobSet_rshiftByWords (hlen : len % 4 = 0) :
    BlobSet buf len (shiftedBit false (8 * len) c (m.bitAt buf)) m (rshiftByWords m buf len c) := by
  have hbits : 8 * len = 32 * (len / 4) := by omega
  refine (replacesUnits_writeWord buf hlen fun _ m _ hi => ?_).blobSet_right m
  rw [hbits]
  exact getLsbD_rightUnit (len / 4)
    (fun _ => getLsbD_wordOr0 m buf _ _) (fun _ => getLsbD_wordOr0 m buf _ _) hi

end

/-- A strategy that moves the bits of the blob leaves the bytes that the command leaves (R150). -/
theorem ShiftsBlob.agrees {g : Gran} {left : Bool} {buf len c : Word} {i : Instr} (hi : ShiftsBlob g left buf len c i)
    {s : State} (h : Admitted s.params buf len) (hlen : g = .g32 → len.toNat % 4 = 0) (hc : 0 ≤ c.toInt) {m' : Memory}
    (hset : BlobSet buf.toNat len.toNat
      (shiftedBit left (8 * len.toNat) c.toInt.toNat (s.mem.bitAt buf.toNat)) s.mem m') :
    ∃ m, exec i s = .next ((s.withMem m).deliver ⟨statusDone, 0#64⟩) ∧ ∀ a, m.read a = m'.read a := by
  obtain ⟨m, hexec, hdone⟩ := hi.done h hlen hc
  exact ⟨m, hexec, hdone.read_eq hset⟩

/-- Settles O47: command and loops set the same bits. -/
theorem oneBitShiftStrategyAgrees : Obligations.OneBitShiftStrategyAgrees :=
  fun buf len _ s h hc =>
    ⟨ShiftsBlob.agrees (g := .g1) (fun _ => rfl) h nofun hc (blobSet_lshiftByBits s.mem buf.toNat len.toNat _),
      ShiftsBlob.agrees (g := .g1) (fun _ => rfl) h nofun hc (blobSet_rshiftByBits s.mem buf.toNat len.toNat _)⟩

/-- Settles O48: as O47, by bytes. -/
theorem byteShiftStrategyAgrees : Obligations.ByteShiftStrategyAgrees :=
  fun buf len _ s h hc =>
    ⟨ShiftsBlob.agrees (g := .g8) (fun _ => rfl) h nofun hc (blobSet_lshiftByBytes s.mem buf.toNat len.toNat _),
      ShiftsBlob.agrees (g := .g8) (fun _ => rfl) h nofun hc (blobSet_rshiftByBytes s.mem buf.toNat len.toNat _)⟩

/-- Settles O49: as O47, by words, which fill the blob when its length is a multiple of 4. -/
theorem wordShiftStrategyAgrees : Obligations.WordShiftStrategyAgrees :=
  fun buf _ _ s h hlen hc =>
    ⟨ShiftsBlob.agrees (g := .g32) (fun _ => rfl) h (fun _ => hlen) hc (blobSet_lshiftByWords s.mem buf.toNat _ hlen),
      ShiftsBlob.agrees (g := .g32) (fun _ => rfl) h (fun _ => hlen) hc (blobSet_rshiftByWords s.mem buf.toNat _ hlen)⟩

end Sys2Proof.Machine

/-! ## Rotates: the value rotates, the blob rotates and what they keep -/

namespace Sys2Proof.Machine

/-! ### Where a rotated bit comes from (R13, R172) -/

/-- The reference function of the left rotates and that of the right rotates (R13). -/
def rotateBy : Bool → Nat → Nat → Nat → Nat
  | true => rol
  | false => ror

/-- The index that bit `k` of a rotate of `n` bits by `e` comes from: `e` places round below it (left) or above it
(right), for `e <= n`. -/
def rotSource (left : Bool) (n e k : Nat) : Nat := (k + if left then n - e else e) % n

theorem rotSource_left (n e k : Nat) : rotSource true n e k = (k + (n - e)) % n := rfl

theorem rotSource_right (n e k : Nat) : rotSource false n e k = (k + e) % n := rfl

theorem rotSource_lt (left : Bool) (e k : Nat) {n : Nat} (hn : 0 < n) : rotSource left n e k < n := Nat.mod_lt _ hn

theorem rotSource_zero (left : Bool) {n k : Nat} (hk : k < n) : rotSource left n 0 k = k := by
  cases left
  · rw [rotSource_right, Nat.add_zero, Nat.mod_eq_of_lt hk]
  · rw [rotSource_left, Nat.sub_zero, Nat.add_mod_right, Nat.mod_eq_of_lt hk]

/-- Two rotates the same way add their amounts (R180). -/
theorem rotSource_rotSource (left : Bool) {n a b : Nat} (h : a + b ≤ n) (k : Nat) :
    rotSource left n a (rotSource left n b k) = rotSource left n (a + b) k := by
  cases left
  · rw [rotSource_right, rotSource_right, rotSource_right, Nat.mod_add_mod, Nat.add_assoc, Nat.add_comm b a]
  · rw [rotSource_left, rotSource_left, rotSource_left, Nat.mod_add_mod,
      show k + (n - b) + (n - a) = k + (n - (a + b)) + n by omega, Nat.add_mod_right]

/-- A rotate the other way by the same amount leads back (R180). -/
theorem rotSource_not_rotSource (left : Bool) {n e k : Nat} (he : e < n) (hk : k < n) :
    rotSource (!left) n e (rotSource left n e k) = k := by
  cases left
  · rw [Bool.not_false, rotSource_left, rotSource_right, Nat.mod_add_mod,
      show k + e + (n - e) = k + n by omega, Nat.add_mod_right, Nat.mod_eq_of_lt hk]
  · rw [Bool.not_true, rotSource_left, rotSource_right, Nat.mod_add_mod,
      show k + (n - e) + e = k + n by omega, Nat.add_mod_right, Nat.mod_eq_of_lt hk]

theorem rotSource_rotSource_not (left : Bool) {n e k : Nat} (he : e < n) (hk : k < n) :
    rotSource left n e (rotSource (!left) n e k) = k := by
  simpa only [Bool.not_not] using rotSource_not_rotSource (!left) he hk

/-- The source by the reduced amount, in the form of the statements: the amount itself, round the circle of `n` bits. -/
theorem rotSource_residue (left : Bool) (c : Int) {n : Nat} (hn : 0 < n) (k : Nat) :
    rotSource left n (residue c n) k = ((if left then (k : Int) - c else (k : Int) + c) % (n : Int)).toNat := by
  rw [← Int.toNat_natCast (rotSource left n (residue c n) k)]
  congr 1
  cases left
  · rw [rotSource_right, Int.natCast_mod, Int.natCast_add, residue_spec c hn, Int.add_emod_emod]
    rfl
  · rw [rotSource_left, Int.natCast_mod, Int.natCast_add, Int.natCast_sub (residue_lt c hn).le, residue_spec c hn,
      ← add_sub_assoc, add_sub_right_comm, Int.add_emod_right, Int.sub_emod_emod]
    rfl

theorem testBit_rotateBy (left : Bool) {V n e : Nat} (hV : V < 2 ^ n) (he : e < n) (k : Nat) :
    (rotateBy left V n e).testBit k = (decide (k < n) && V.testBit (rotSource left n e k)) := by
  cases left
  · exact testBit_ror hV he k
  · rw [rotateBy, testBit_rol hV he, rotSource_left, Nat.add_sub_assoc he.le]

/-! ### The value rotates (R171, R181 to R184) -/

/-- The command is the value rotate of the `N` bits of `x` by the amount `c`. -/
def RotatesValue (N : Nat) (left : Bool) (x : Nat) (c : Word) (i : Instr) : Prop :=
  ∀ s, exec i s = .next (s.deliver ⟨statusDone, resultOf (rotateBy left x N (residue (amount c) N))⟩)

/-- Settles O40: each of the four is a value rotate, and the bits of its RESULT are those of the reference function. -/
theorem valueRotatesMoveEveryBit : Obligations.ValueRotatesMoveEveryBit := by
  intro x z c s i p N v left hmem
  have hrotate : encode i = p ∧ 0 < N ∧ ∃ y : BitVec N, v = y.getLsbD ∧ RotatesValue N left y.toNat c i := by
    simp only [List.mem_cons, List.not_mem_nil, or_false, Prod.mk.injEq] at hmem
    obtain ⟨rfl, rfl, rfl, rfl, rfl⟩ | ⟨rfl, rfl, rfl, rfl, rfl⟩ | ⟨rfl, rfl, rfl, rfl, rfl⟩ |
      ⟨rfl, rfl, rfl, rfl, rfl⟩ := hmem
    · exact ⟨rfl, by decide, z, rfl, fun _ => rfl⟩
    · exact ⟨rfl, by decide, z, rfl, fun _ => rfl⟩
    · exact ⟨rfl, by decide, x, rfl, fun _ => rfl⟩
    · exact ⟨rfl, by decide, x, rfl, fun _ => rfl⟩
  obtain ⟨hencode, hN, y, rfl, hi⟩ := hrotate
  refine ⟨hencode, _, hi s, fun k hk => ?_⟩
  rw [getLsbD_resultOf _ hk, testBit_rotateBy left y.isLt (residue_lt _ hN), rotSource_residue left _ hN]
  rfl

/-! ### The blob rotates (R170, R172, R223, R224) -/

theorem BlobSet.congr {buf len : Nat} {bits bits' : Nat → Bool} {m m' : Memory} (h : BlobSet buf len bits m m')
    (hbits : ∀ k, k < 8 * len → bits k = bits' k) : BlobSet buf len bits' m m' :=
  ⟨h.outside, fun k hk => (h.bitAt k hk).trans (hbits k hk)⟩

theorem blobSet_refl (m : Memory) (buf len : Nat) : BlobSet buf len (m.bitAt buf) m m :=
  ⟨fun _ _ => rfl, fun _ _ => rfl⟩

/-- Two moves of the bits of a blob, one after the other, are one. -/
theorem BlobSet.trans {buf len : Nat} {f g : Nat → Nat} {m m₁ m₂ : Memory}
    (h₁ : BlobSet buf len (m.bitAt buf ∘ f) m m₁) (h₂ : BlobSet buf len (m₁.bitAt buf ∘ g) m₁ m₂)
    (hg : ∀ k, k < 8 * len → g k < 8 * len) : BlobSet buf len (m.bitAt buf ∘ f ∘ g) m m₂ where
  outside a ha := (h₂.outside a ha).trans (h₁.outside a ha)
  bitAt k hk := (h₂.bitAt k hk).trans (h₁.bitAt (g k) (hg k hk))

/-- The reference function on the value of the blob moves the bits of the blob (R170). -/
theorem blobSet_rotateBy (left : Bool) (m : Memory) (buf len : Nat) {e : Nat} (he : e < 8 * len) :
    BlobSet buf len (m.bitAt buf ∘ rotSource left (8 * len) e) m
      (m.setBlob buf len (rotateBy left (m.blobValue buf len) (8 * len) e)) := by
  refine (blobSet_setBlob m buf len _).congr fun k hk => ?_
  have hsource : rotSource left (8 * len) e k < 8 * len := rotSource_lt left e k (by omega)
  rw [testBit_rotateBy left (m.blobValue_lt buf len) he, decide_eq_true hk, Bool.true_and, Function.comp_apply,
    m.bitAt_eq_testBit buf hsource]

theorem rotChecks_of_not_admitted {p : Params} {buf len : Word} (h : ¬ Admitted p buf len) (g : Gran) :
    rotChecks p g buf len = some .badLen := firstFault_of_not_admitted h _

theorem rotChecks_of_bad_length {p : Params} {buf len : Word} (h : Admitted p buf len) (hlen : len.toNat % 4 ≠ 0) :
    rotChecks p .g32 buf len = some .badGran := by
  rw [rotChecks, firstFault_of_admitted h, granCheck, faultIf, if_pos ⟨rfl, hlen⟩, firstFault_some]

/-- The command is the blob rotate of granularity `g` by the amount `c`. -/
def RotatesBlob (g : Gran) (left : Bool) (buf len c : Word) (i : Instr) : Prop :=
  ∀ s, exec i s = rotateBlob g (rotateBy left) buf len c s

section
variable {g : Gran} {left : Bool} {buf len c : Word} {i : Instr}

theorem RotatesBlob.fault (hi : RotatesBlob g left buf len c i) {s : State} {x : CmdFault}
    (h : rotChecks s.params g buf len = some x) : exec i s = .next (s.deliver ⟨faultCode x, 0#64⟩) := by
  rw [hi, rotateBlob, h, guarded_some, raise_eq]

theorem RotatesBlob.empty (hi : RotatesBlob g left buf len c i) {s : State}
    (h : rotChecks s.params g buf len = none) (hlen : len.toNat = 0) :
    exec i s = .next (s.deliver ⟨statusDone, 0#64⟩) := by
  rw [hi, rotateBlob, h, guarded_none, if_pos hlen, complete_eq]

/-- A blob rotate whose checks find nothing moves the bits of the blob round and answers RESULT 0; an empty blob has no
bit to move (R172). -/
theorem RotatesBlob.done (hi : RotatesBlob g left buf len c i) {s : State}
    (h : rotChecks s.params g buf len = none) :
    ∃ m, exec i s = .next ((s.withMem m).deliver ⟨statusDone, 0#64⟩) ∧
      BlobSet buf.toNat len.toNat
        (s.mem.bitAt buf.toNat ∘ rotSource left (8 * len.toNat) (residue (amount c) (8 * len.toNat))) s.mem m := by
  by_cases hlen : len.toNat = 0
  · exact ⟨s.mem, hi.empty h hlen, (blobSet_refl s.mem _ _).congr fun k hk => by omega⟩
  · refine ⟨_, ?_, blobSet_rotateBy left s.mem buf.toNat len.toNat (residue_lt (amount c) (by omega))⟩
    rw [hi, rotateBlob, h, guarded_none, if_neg hlen, complete_eq]

/-- What a blob rotate can do to memory: nothing, or its bits go round. -/
theorem RotatesBlob.mem_cases (hi : RotatesBlob g left buf len c i) {s t : State} (h : exec i s = .next t) :
    t.mem = s.mem ∨
      BlobSet buf.toNat len.toNat
        (s.mem.bitAt buf.toNat ∘ rotSource left (8 * len.toNat) (residue (amount c) (8 * len.toNat))) s.mem t.mem := by
  cases hchecks : rotChecks s.params g buf len with
  | some x =>
    rw [hi.fault hchecks, Host.Outcome.next.injEq] at h
    exact .inl (h ▸ rfl)
  | none =>
    obtain ⟨m, hexec, hset⟩ := hi.done hchecks
    rw [hexec, Host.Outcome.next.injEq] at h
    exact .inr (h ▸ hset)

end

/-- Settles O39: each of the eight is a blob rotate of the granularity in its `W[0]`, and a blob rotate faults and
completes as stated. -/
theorem blobRotatesMoveEveryBit : Obligations.BlobRotatesMoveEveryBit := by
  intro buf len c s i w left hmem
  have hrotate : encode i = ⟨w, buf, len, c, 0#32⟩ ∧
      ∃ g, (w.extractLsb' 8 2 = 3#2 ↔ g = .g32) ∧ RotatesBlob g left buf len c i := by
    simp only [List.mem_cons, List.not_mem_nil, or_false, Prod.mk.injEq] at hmem
    obtain ⟨rfl, rfl, rfl⟩ | ⟨rfl, rfl, rfl⟩ | ⟨rfl, rfl, rfl⟩ | ⟨rfl, rfl, rfl⟩ | ⟨rfl, rfl, rfl⟩ |
      ⟨rfl, rfl, rfl⟩ | ⟨rfl, rfl, rfl⟩ | ⟨rfl, rfl, rfl⟩ := hmem
    · exact ⟨rfl, .auto, by decide, fun _ => rfl⟩
    · exact ⟨rfl, .g1, by decide, fun _ => rfl⟩
    · exact ⟨rfl, .g8, by decide, fun _ => rfl⟩
    · exact ⟨rfl, .g32, by decide, fun _ => rfl⟩
    · exact ⟨rfl, .auto, by decide, fun _ => rfl⟩
    · exact ⟨rfl, .g1, by decide, fun _ => rfl⟩
    · exact ⟨rfl, .g8, by decide, fun _ => rfl⟩
    · exact ⟨rfl, .g32, by decide, fun _ => rfl⟩
  obtain ⟨hencode, g, hg, hi⟩ := hrotate
  simp only [hg]
  refine ⟨hencode, fun h => ?_, ?_, fun h hlen => ?_, fun h hlen hpos => ?_⟩
  · exact hi.fault (rotChecks_of_not_admitted h g)
  · rintro h rfl hlen
    exact hi.fault (rotChecks_of_bad_length h hlen)
  · exact hi.empty ((rotChecks_eq_none _ _ _ _).2 ⟨h, fun _ => by omega⟩) hlen
  · obtain ⟨m, hexec, hset⟩ := hi.done ((rotChecks_eq_none _ _ _ _).2 ⟨h, hlen⟩)
    refine ⟨m, hexec, hset.outside, fun k hk => (hset.bitAt k hk).trans ?_⟩
    rw [Function.comp_apply, rotSource_residue left _ (by omega)]
    rfl

/-! ### What a rotate keeps (R170, R180) -/

/-- A rotate and the rotate the other way by the same amount leave every byte as it was. -/
theorem RotatesBlob.read_eq_of_undo {left : Bool} {buf len c : Word} {i j : Instr}
    (hi : RotatesBlob .auto left buf len c i) (hj : RotatesBlob .auto (!left) buf len c j) {s t u : State}
    (h : Admitted s.params buf len) (ht : exec i s = .next t) (hu : exec j t = .next u) (a : Nat) :
    u.mem.read a = s.mem.read a := by
  have hchecks : rotChecks s.params .auto buf len = none := (rotChecks_eq_none _ _ _ _).2 ⟨h, nofun⟩
  obtain ⟨m₁, hexec₁, hset₁⟩ := hi.done hchecks
  obtain rfl := Host.Outcome.next.inj (hexec₁.symm.trans ht)
  obtain ⟨m₂, hexec₂, hset₂⟩ := hj.done hchecks (s := (s.withMem m₁).deliver ⟨statusDone, 0#64⟩)
  obtain rfl := Host.Outcome.next.inj (hexec₂.symm.trans hu)
  have hsource : ∀ k, k < 8 * len.toNat → rotSource (!left) (8 * len.toNat) (residue (amount c) (8 * len.toNat)) k <
      8 * len.toNat := fun k hk => rotSource_lt _ _ k (by omega)
  have hback : BlobSet buf.toNat len.toNat (s.mem.bitAt buf.toNat) s.mem m₂ :=
    (hset₁.trans hset₂ hsource).congr fun k hk =>
      congrArg (s.mem.bitAt buf.toNat) (rotSource_rotSource_not left (residue_lt (amount c) (by omega)) hk)
  exact hback.read_eq (blobSet_refl s.mem _ _) a

/-- Settles O41: of the two rotates one is the other way, whichever comes first. -/
theorem rotatesUndoEachOther : Obligations.RotatesUndoEachOther :=
  fun _ _ _ _ _ _ h =>
    ⟨RotatesBlob.read_eq_of_undo (left := true) (fun _ => rfl) (fun _ => rfl) h,
      RotatesBlob.read_eq_of_undo (left := false) (fun _ => rfl) (fun _ => rfl) h⟩

theorem pop_eq_sum (N u : Nat) : pop N u = ∑ i ∈ Finset.range N, (u.testBit i).toNat := by
  induction N with
  | zero => rfl
  | succ N ih => rw [pop, ih, Finset.sum_range_succ]

/-- The sources of a rotate are the bits again, each once, so the count is the same. -/
theorem pop_eq_of_rotSource {left : Bool} {n e U V : Nat} (he : e < n)
    (h : ∀ k, k < n → U.testBit k = V.testBit (rotSource left n e k)) : pop n U = pop n V := by
  have hn : 0 < n := by omega
  rw [pop_eq_sum, pop_eq_sum]
  refine Finset.sum_nbij' (rotSource left n e) (rotSource (!left) n e)
    (fun k _ => Finset.mem_range.2 (rotSource_lt _ _ k hn)) (fun k _ => Finset.mem_range.2 (rotSource_lt _ _ k hn))
    (fun k hk => rotSource_not_rotSource left he (Finset.mem_range.1 hk))
    (fun k hk => rotSource_rotSource_not left he (Finset.mem_range.1 hk))
    fun k hk => congrArg Bool.toNat (h k (Finset.mem_range.1 hk))

theorem RotatesBlob.pop_eq {g : Gran} {left : Bool} {buf len c : Word} {i : Instr}
    (hi : RotatesBlob g left buf len c i) {s t : State} (h : exec i s = .next t) :
    pop (8 * len.toNat) (t.mem.blobValue buf.toNat len.toNat) =
      pop (8 * len.toNat) (s.mem.blobValue buf.toNat len.toNat) := by
  obtain hmem | hset := hi.mem_cases h
  · rw [hmem]
  · obtain hlen | hlen := Nat.eq_zero_or_pos (8 * len.toNat)
    · rw [hlen, pop, pop]
    · refine pop_eq_of_rotSource (left := left) (residue_lt (amount c) hlen) fun k hk => ?_
      rw [← t.mem.bitAt_eq_testBit buf.toNat hk, hset.bitAt k hk, Function.comp_apply,
        s.mem.bitAt_eq_testBit buf.toNat (rotSource_lt left _ k hlen)]

/-- Settles O42: each of the eight is a blob rotate. -/
theorem rotatesKeepTheNumberOfSetBits : Obligations.RotatesKeepTheNumberOfSetBits := by
  intro buf len c s t i hmem h
  have hrotate : ∃ g left, RotatesBlob g left buf len c i := by
    simp only [List.mem_cons, List.not_mem_nil, or_false] at hmem
    obtain rfl | rfl | rfl | rfl | rfl | rfl | rfl | rfl := hmem
    · exact ⟨.auto, true, fun _ => rfl⟩
    · exact ⟨.g1, true, fun _ => rfl⟩
    · exact ⟨.g8, true, fun _ => rfl⟩
    · exact ⟨.g32, true, fun _ => rfl⟩
    · exact ⟨.auto, false, fun _ => rfl⟩
    · exact ⟨.g1, false, fun _ => rfl⟩
    · exact ⟨.g8, false, fun _ => rfl⟩
    · exact ⟨.g32, false, fun _ => rfl⟩
  obtain ⟨g, left, hi⟩ := hrotate
  exact hi.pop_eq h

end Sys2Proof.Machine

/-! ## Rotates: the strategies with temporaries (R173) -/

namespace Sys2Proof.Machine

/-! ### One bit at a time (R174, R175) -/

/-- Another value in the bit that was set last. -/
theorem BlobSet.setBitAt_last {buf len i : Nat} {bits : Nat → Bool} {v : Bool} {m m' : Memory}
    (h : BlobSet buf len bits m (m'.setBitAt buf i v)) (hi : i < 8 * len) (v' : Bool) :
    BlobSet buf len (fun k => if k = i then v' else bits k) m (m'.setBitAt buf i v') where
  outside a ha := by
    have hother : a ≠ buf + i / 8 := by omega
    rw [Memory.read_setBitAt_other _ _ _ _ hother, ← Memory.read_setBitAt_other m' buf i v hother, h.outside a ha]
  bitAt k hk := by
    have hbit := h.bitAt k hk
    rw [Memory.bitAt_setBitAt] at hbit ⊢
    by_cases hki : k = i
    · rw [if_pos hki, if_pos hki]
    · rw [if_neg hki] at hbit ⊢
      rw [if_neg hki, hbit]

section
variable {len : Nat} (hlen : 0 < len) (buf : Nat) (m : Memory)
include hlen

theorem lshiftByBits_one :
    lshiftByBits m buf len 1 =
      (loopDown (fun j m => m.setBitAt buf (j + 1) (m.bitAt buf j)) (8 * len - 1) m).setBitAt buf 0 false := by
  rw [lshiftByBits, if_neg (by omega)]
  simp only [Nat.add_comm 1, loopDown]

theorem rshiftByBits_one :
    rshiftByBits m buf len 1 =
      (loopUp (fun i m => m.setBitAt buf i (m.bitAt buf (i + 1))) (8 * len - 1) m).setBitAt buf (8 * len - 1)
        false := by
  rw [rshiftByBits, if_neg (by omega)]
  rfl

/-- A left pass is the left shift by one bit (R142), but with the bit carried in place of the 0. -/
theorem blobSet_lrotPass :
    BlobSet buf len (m.bitAt buf ∘ rotSource true (8 * len) 1) m (lrotPass buf (8 * len) m) := by
  have hshift := blobSet_lshiftByBits m buf len 1
  rw [lshiftByBits_one hlen] at hshift
  refine (hshift.setBitAt_last (by omega) _).congr fun k hk => ?_
  rw [shiftedBit_left, Function.comp_apply, rotSource_left]
  by_cases hk0 : k = 0
  · rw [if_pos hk0, hk0, Nat.zero_add, Nat.mod_eq_of_lt (by omega)]
  · rw [if_neg hk0, decide_eq_true (by omega), Bool.true_and, show k + (8 * len - 1) = k - 1 + 8 * len by omega,
      Nat.add_mod_right, Nat.mod_eq_of_lt (by omega)]

/-- A right pass is the right shift by one bit (R143), but with the bit carried in place of the 0. -/
theorem blobSet_rrotPass :
    BlobSet buf len (m.bitAt buf ∘ rotSource false (8 * len) 1) m (rrotPass buf (8 * len) m) := by
  have hshift := blobSet_rshiftByBits m buf len 1
  rw [rshiftByBits_one hlen] at hshift
  refine (hshift.setBitAt_last (by omega) _).congr fun k hk => ?_
  rw [shiftedBit_right, Function.comp_apply, rotSource_right]
  by_cases hktop : k = 8 * len - 1
  · rw [if_pos hktop, show k + 1 = 8 * len by omega, Nat.mod_self]
  · rw [if_neg hktop, decide_eq_true (by omega), Bool.true_and, Nat.mod_eq_of_lt (by omega)]

/-- Passes of one bit each add up. -/
theorem blobSet_passes {left : Bool} {pass : Memory → Memory}
    (hpass : ∀ m, BlobSet buf len (m.bitAt buf ∘ rotSource left (8 * len) 1) m (pass m)) {e : Nat} (he : e < 8 * len) :
    BlobSet buf len (m.bitAt buf ∘ rotSource left (8 * len) e) m (loopUp (fun _ => pass) e m) := by
  induction e with
  | zero => exact (blobSet_refl m buf len).congr fun k hk => congrArg (m.bitAt buf) (rotSource_zero left hk).symm
  | succ e ih =>
    refine ((ih (by omega)).trans (hpass _) fun k _ => rotSource_lt left 1 k (by omega)).congr fun k _ => ?_
    exact congrArg (m.bitAt buf) (rotSource_rotSource left he.le k)

theorem blobSet_lrotByBits {e : Nat} (he : e < 8 * len) :
    BlobSet buf len (m.bitAt buf ∘ rotSource true (8 * len) e) m (lrotByBits m buf len e) :=
  blobSet_passes hlen buf m (blobSet_lrotPass hlen buf) he

theorem blobSet_rrotByBits {e : Nat} (he : e < 8 * len) :
    BlobSet buf len (m.bitAt buf ∘ rotSource false (8 * len) e) m (rrotByBits m buf len e) :=
  blobSet_passes hlen buf m (blobSet_rrotPass hlen buf) he

end

/-- A strategy that moves the bits of the blob round leaves the bytes that the command leaves (R180). -/
theorem RotatesBlob.agrees {g : Gran} {left : Bool} {buf len c : Word} {i : Instr}
    (hi : RotatesBlob g left buf len c i) {s : State} (h : Admitted s.params buf len)
    (hgran : g = .g32 → len.toNat % 4 = 0) (hlen : 0 < len.toNat) {strategy : Memory → Nat → Nat → Nat → Memory}
    (hset : ∀ {e}, e < 8 * len.toNat →
      BlobSet buf.toNat len.toNat (s.mem.bitAt buf.toNat ∘ rotSource left (8 * len.toNat) e) s.mem
        (strategy s.mem buf.toNat len.toNat e)) :
    ∃ m, exec i s = .next ((s.withMem m).deliver ⟨statusDone, 0#64⟩) ∧
      ∀ a, m.read a =
        (strategy s.mem buf.toNat len.toNat (c.toInt % ((8 * len.toNat : Nat) : Int)).toNat).read a := by
  obtain ⟨m, hexec, hdone⟩ := hi.done ((rotChecks_eq_none _ _ _ _).2 ⟨h, hgran⟩)
  exact ⟨m, hexec, hdone.read_eq (hset (residue_lt (amount c) (by omega)))⟩

/-- Settles O50: command and passes move the same bits. -/
theorem oneBitRotateStrategyAgrees : Obligations.OneBitRotateStrategyAgrees :=
  fun buf _ _ s h hlen =>
    ⟨RotatesBlob.agrees (g := .g1) (fun _ => rfl) h nofun hlen (blobSet_lrotByBits hlen buf.toNat s.mem),
      RotatesBlob.agrees (g := .g1) (fun _ => rfl) h nofun hlen (blobSet_rrotByBits hlen buf.toNat s.mem)⟩

/-! ### Units from a copy (R176 to R179)

The copy `T` is the memory before the loop, so the new bits of a unit are fixed when the loop begins. -/

/-- In units of `w` bits round a circle of `N`: bit `o` of unit `p`. -/
theorem unit_mod {w o : Nat} (ho : o < w) (p N : Nat) : (w * p + o) % (w * N) = w * (p % N) + o := by
  rw [Nat.mod_mul, Nat.mul_add_mod, Nat.mod_eq_of_lt ho, Nat.mul_add_div (by omega), Nat.div_eq_of_lt ho, Nat.add_zero,
    Nat.add_comm]

/-- `w` bits of the circle, from bit `r` of unit `p` on: the rest of that unit, then the next one. -/
theorem getLsbD_funnel {w N p r i : Nat} {b : Nat → Bool} {x y : BitVec w}
    (hx : ∀ i, i < w → x.getLsbD i = b (w * (p % N) + i))
    (hy : ∀ i, i < w → y.getLsbD i = b (w * ((p + 1) % N) + i)) (hr : r ≤ w) (hi : i < w) :
    ((x >>> r) ||| (y <<< (w - r))).getLsbD i = b ((w * p + r + i) % (w * N)) := by
  rw [BitVec.getLsbD_or, BitVec.getLsbD_ushiftRight, BitVec.getLsbD_shiftLeft]
  by_cases hin : r + i < w
  · rw [hx _ hin, Nat.add_assoc, unit_mod hin]
    simp [show i < w - r by omega]
  · rw [BitVec.getLsbD_of_ge x _ (by omega), hy _ (by omega),
      show w * p + r + i = w * (p + 1) + (i - (w - r)) by rw [Nat.mul_add]; omega, unit_mod (by omega)]
    simp [hi, show ¬ i < w - r by omega]

/-- Unit `j` of a right rotate by `e`, from unit `j + e / w` and the one above it (R177, R179). -/
theorem getLsbD_rightRotUnit {w N e j i : Nat} {b : Nat → Bool} {x y : BitVec w}
    (hx : ∀ i, i < w → x.getLsbD i = b (w * ((j + e / w) % N) + i))
    (hy : ∀ i, i < w → y.getLsbD i = b (w * ((j + e / w + 1) % N) + i)) (hi : i < w) :
    ((x >>> (e % w)) ||| (y <<< (w - e % w))).getLsbD i = b (rotSource false (w * N) e (w * j + i)) := by
  have he : w * (e / w) + e % w = e := Nat.div_add_mod e w
  rw [getLsbD_funnel hx hy (Nat.mod_lt e (by omega)).le hi, rotSource_right,
    show w * (j + e / w) + e % w + i = w * j + i + e by rw [Nat.mul_add]; omega]

/-- Unit `j` of a left rotate by `e`, from unit `j - e / w` and the one below it (R176, R178). -/
theorem getLsbD_leftRotUnit {w N e j i : Nat} {b : Nat → Bool} {x y : BitVec w} (heN : e < w * N)
    (hx : ∀ i, i < w → x.getLsbD i = b (w * ((j + N - e / w) % N) + i))
    (hy : ∀ i, i < w → y.getLsbD i = b (w * ((j + N - e / w - 1) % N) + i)) (hi : i < w) :
    ((x <<< (e % w)) ||| (y >>> (w - e % w))).getLsbD i = b (rotSource true (w * N) e (w * j + i)) := by
  have he : w * (e / w) + e % w = e := Nat.div_add_mod e w
  have hr : e % w < w := Nat.mod_lt e (by omega)
  have hq : e / w < N := Nat.div_lt_of_lt_mul heN
  obtain ⟨p, hp⟩ : ∃ p, j + N - e / w = p + 1 := ⟨j + N - e / w - 1, by omega⟩
  have hunits : w * (j + N) = w * (p + 1 + e / w) := congrArg (w * ·) (by omega)
  rw [hp] at hx
  rw [hp, Nat.add_sub_cancel] at hy
  have hfunnel := getLsbD_funnel hy hx (Nat.sub_le w (e % w)) hi
  rw [Nat.sub_sub_self hr.le] at hfunnel
  rw [BitVec.or_comm, hfunnel, rotSource_left]
  congr 2
  simp only [Nat.mul_add] at hunits
  omega

/-- A loop whose passes replace every unit of the blob by bits fixed beforehand. -/
theorem ReplacesUnits.blobSet_loopUp {buf len w N : Nat} {bits : Nat → Bool} {body : Nat → Memory → Memory}
    (h : ReplacesUnits buf len w N (fun _ => bits) body) (m : Memory) : BlobSet buf len bits m (loopUp body N m) := by
  have hloop : ∀ M, M ≤ N → ∀ k, (loopUp body M m).bitAt buf k = if k / w < M then bits k else m.bitAt buf k := by
    intro M hM k
    induction M with
    | zero => simp [loopUp]
    | succ M ih =>
      rw [loopUp, h.bitAt M (by omega)]
      by_cases hk : k / w = M
      · rw [if_pos hk, if_pos (by omega)]
      · rw [if_neg hk, ih (by omega)]
        exact if_congr (by omega) rfl rfl
  exact ⟨h.loopUp_outside m, fun k hk => (hloop N le_rfl k).trans (if_pos (h.div_lt hk))⟩

theorem Memory.fill_eq_loopUp (m : Memory) (a : Nat) (f : Nat → Byte) (k : Nat) :
    m.fill a f k = loopUp (fun j m => m.write (a + j) (f j)) k m := by
  induction k with
  | zero => rfl
  | succ k ih => rw [Memory.fill, loopUp, ih]

section
variable (m : Memory) (buf : Nat) {len e : Nat}

theorem blobSet_lrotByBytes (he : e < 8 * len) :
    BlobSet buf len (m.bitAt buf ∘ rotSource true (8 * len) e) m (lrotByBytes m buf len e) := by
  rw [lrotByBytes, Memory.fill_eq_loopUp]
  exact (replacesUnits_write buf len fun _ _ _ hi => getLsbD_leftRotUnit he
    (fun _ hi => (m.bitAt_eq buf _ _ hi).symm) (fun _ hi => (m.bitAt_eq buf _ _ hi).symm) hi).blobSet_loopUp m

theorem blobSet_rrotByBytes :
    BlobSet buf len (m.bitAt buf ∘ rotSource false (8 * len) e) m (rrotByBytes m buf len e) := by
  rw [rrotByBytes, Memory.fill_eq_loopUp]
  exact (replacesUnits_write buf len fun _ _ _ hi => getLsbD_rightRotUnit
    (fun _ hi => (m.bitAt_eq buf _ _ hi).symm) (fun _ hi => (m.bitAt_eq buf _ _ hi).symm) hi).blobSet_loopUp m

theorem blobSet_lrotByWords (hlen : len % 4 = 0) (he : e < 8 * len) :
    BlobSet buf len (m.bitAt buf ∘ rotSource true (8 * len) e) m (lrotByWords m buf len e) := by
  have hbits : 8 * len = 32 * (len / 4) := by omega
  rw [hbits] at he ⊢
  exact (replacesUnits_writeWord buf hlen fun _ _ _ hi => getLsbD_leftRotUnit he
    (fun _ hi => (m.bitAt_eq_readWord buf _ hi).symm) (fun _ hi => (m.bitAt_eq_readWord buf _ hi).symm)
    hi).blobSet_loopUp m

theorem blobSet_rrotByWords (hlen : len % 4 = 0) :
    BlobSet buf len (m.bitAt buf ∘ rotSource false (8 * len) e) m (rrotByWords m buf len e) := by
  have hbits : 8 * len = 32 * (len / 4) := by omega
  rw [hbits]
  exact (replacesUnits_writeWord buf hlen fun _ _ _ hi => getLsbD_rightRotUnit
    (fun _ hi => (m.bitAt_eq_readWord buf _ hi).symm) (fun _ hi => (m.bitAt_eq_readWord buf _ hi).symm)
    hi).blobSet_loopUp m

end

/-- Settles O51: as O50, by bytes. -/
theorem byteRotateStrategyAgrees : Obligations.ByteRotateStrategyAgrees :=
  fun buf _ _ s h hlen =>
    ⟨RotatesBlob.agrees (g := .g8) (fun _ => rfl) h nofun hlen (blobSet_lrotByBytes s.mem buf.toNat),
      RotatesBlob.agrees (g := .g8) (fun _ => rfl) h nofun hlen fun _ => blobSet_rrotByBytes s.mem buf.toNat⟩

/-- Settles O52: as O50, by words, which fill the blob when its length is a multiple of 4. -/
theorem wordRotateStrategyAgrees : Obligations.WordRotateStrategyAgrees :=
  fun buf _ _ s h hlen hgran =>
    ⟨RotatesBlob.agrees (g := .g32) (fun _ => rfl) h (fun _ => hgran) hlen
        (blobSet_lrotByWords s.mem buf.toNat hgran),
      RotatesBlob.agrees (g := .g32) (fun _ => rfl) h (fun _ => hgran) hlen fun _ =>
        blobSet_rrotByWords s.mem buf.toNat hgran⟩

end Sys2Proof.Machine

/-! ## Windows: the value windows, the blob windows and their strategies -/

namespace Sys2Proof.Machine

/-! ### The checks of a window (R201, R204, R205) -/

/-- A check at the head of the list: its fault, or the answer of the rest. -/
theorem firstFault_faultIf (c : Prop) [Decidable c] (f : CmdFault) (rest : List (Option CmdFault)) :
    firstFault (faultIf c f :: rest) = if c then some f else firstFault rest := by
  rw [faultIf]
  split <;> rfl

section
variable {p : Params} {g : Gran} {buf len count : Word}

theorem windowChecks_of_not_admitted (h : ¬ Admitted p buf len) (g : Gran) (count : Word) :
    windowChecks p g buf len count = some .badLen := firstFault_of_not_admitted h _

theorem windowChecks_of_empty (h : Admitted p buf len) (hlen : len.toNat = 0) (g : Gran) (count : Word) :
    windowChecks p g buf len count = some .badLen := by
  rw [windowChecks, firstFault_of_admitted h, emptyCheck, firstFault_faultIf, if_pos hlen]

theorem windowChecks_of_bad_length (h : Admitted p buf len) (hlen : len.toNat % 4 ≠ 0) (count : Word) :
    windowChecks p .g32 buf len count = some .badGran := by
  rw [windowChecks, firstFault_of_admitted h, emptyCheck, firstFault_faultIf, if_neg (by omega), granCheck,
    firstFault_faultIf, if_pos ⟨rfl, hlen⟩]

/-- A count outside 1 to 32 and one of more bits than the blob has are two checks with one fault. -/
theorem windowChecks_of_bad_count (h : Admitted p buf len) (hpos : 0 < len.toNat)
    (hgran : g = .g32 → len.toNat % 4 = 0)
    (hcount : count.toNat < 1 ∨ 32 < count.toNat ∨ 8 * len.toNat < count.toNat) :
    windowChecks p g buf len count = some .badCount := by
  rw [windowChecks, firstFault_of_admitted h, emptyCheck, firstFault_faultIf, if_neg hpos.ne', granCheck,
    firstFault_faultIf, if_neg fun ⟨hg, hne⟩ => hne (hgran hg), countCheck, firstFault_faultIf, countFits,
    firstFault_faultIf]
  by_cases hrange : count.toNat < 1 ∨ 32 < count.toNat
  · rw [if_pos hrange]
  · rw [if_neg hrange, if_pos (by omega)]

end

/-! ### The value windows (R204, R205) -/

/-- An amount that is not negative is reduced as a natural (R8). -/
theorem residue_natCast (a n : Nat) : residue a n = a % n := by
  rw [residue, ← Int.natCast_mod, Int.toNat_natCast]

/-- The window of R200 begins with a right rotate (R171). -/
theorem rotr_and_mask (V n start count : Nat) : rotr V n start &&& mask count = win V n start count := by
  rw [rotr, residue_natCast, win]

/-- The command is the window of the `N` bits of `x`. -/
def WindowsValue (N x : Nat) (start count : Word) (i : Instr) : Prop :=
  ∀ s, exec i s =
    guarded (countCheck count) s (complete s (resultOf (rotr x N start.toNat &&& mask count.toNat)))

section
variable {N x : Nat} {start count : Word} {i : Instr}

theorem WindowsValue.fault (hi : WindowsValue N x start count i) (h : count.toNat < 1 ∨ 32 < count.toNat) (s : State) :
    exec i s = .next (s.deliver ⟨faultCode .badCount, 0#64⟩) := by
  rw [hi, countCheck, faultIf, if_pos h, guarded_some, raise_eq]

theorem WindowsValue.done (hi : WindowsValue N x start count i) (h1 : 1 ≤ count.toNat) (h32 : count.toNat ≤ 32)
    (s : State) : exec i s = .next (s.deliver ⟨statusDone, resultOf (win x N start.toNat count.toNat)⟩) := by
  rw [hi, countCheck, faultIf, if_neg (by omega), guarded_none, complete_eq, rotr_and_mask]

end

/-- Settles O44: both are value windows, and the bits of RESULT are those of the reference function. -/
theorem valueWindowsExtractCircularly : Obligations.ValueWindowsExtractCircularly := by
  intro x z start count s i p N v hmem
  have hwindow : encode i = p ∧ 32 ≤ N ∧ ∃ y : BitVec N, v = y.getLsbD ∧ WindowsValue N y.toNat start count i := by
    simp only [List.mem_cons, List.not_mem_nil, or_false, Prod.mk.injEq] at hmem
    obtain ⟨rfl, rfl, rfl, rfl⟩ | ⟨rfl, rfl, rfl, rfl⟩ := hmem
    · exact ⟨rfl, by decide, z, rfl, fun _ => rfl⟩
    · exact ⟨rfl, by decide, x, rfl, fun _ => rfl⟩
  obtain ⟨hencode, hN, y, rfl, hi⟩ := hwindow
  refine ⟨hencode, fun hcount => hi.fault hcount s, fun h1 h32 => ⟨_, hi.done h1 h32 s, fun k hk => ?_⟩⟩
  rw [getLsbD_resultOf _ hk, testBit_win y.isLt (by omega) _ _ _ (by omega)]
  rfl

/-! ### The blob windows (R200, R201, R227) -/

/-- The reference function on the value of the blob collects bits of the blob (R200). -/
theorem testBit_win_blobValue (m : Memory) (buf : Nat) {len count : Nat} (hlen : 0 < len) (hcount : count ≤ 8 * len)
    (start k : Nat) :
    (win (m.blobValue buf len) (8 * len) start count).testBit k =
      (decide (k < count) && m.bitAt buf ((start + k) % (8 * len))) := by
  have hn : 0 < 8 * len := by omega
  rw [testBit_win (m.blobValue_lt buf len) hn _ _ _ hcount, m.bitAt_eq_testBit buf (Nat.mod_lt _ hn)]

/-- The command is the blob window of granularity `g`. -/
def WindowsBlob (g : Gran) (buf len start count : Word) (i : Instr) : Prop :=
  ∀ s, exec i s = windowBlob g buf len start count s

section
variable {g : Gran} {buf len start count : Word} {i : Instr}

theorem WindowsBlob.fault (hi : WindowsBlob g buf len start count i) {s : State} {x : CmdFault}
    (h : windowChecks s.params g buf len count = some x) : exec i s = .next (s.deliver ⟨faultCode x, 0#64⟩) := by
  rw [hi, windowBlob, h, guarded_some, raise_eq]

theorem WindowsBlob.done (hi : WindowsBlob g buf len start count i) {s : State}
    (h : windowChecks s.params g buf len count = none) :
    exec i s = .next (s.deliver ⟨statusDone,
      resultOf (win (s.mem.blobValue buf.toNat len.toNat) (8 * len.toNat) start.toNat count.toNat)⟩) := by
  rw [hi, windowBlob, h, guarded_none, complete_eq]

/-- STATUS 0 tells that the checks found nothing. -/
theorem WindowsBlob.of_status_done (hi : WindowsBlob g buf len start count i) {s t : State} {r : Response}
    (h : exec i s = .next t) (hr : t.response = some r) (h0 : r.status = statusDone) :
    windowChecks s.params g buf len count = none ∧
      r.result = resultOf (win (s.mem.blobValue buf.toNat len.toNat) (8 * len.toNat) start.toNat count.toNat) := by
  cases hchecks : windowChecks s.params g buf len count with
  | some x =>
    rw [hi.fault hchecks, Host.Outcome.next.injEq] at h
    obtain rfl : _ = r := Option.some.inj (h ▸ hr)
    exact absurd h0 (faultCode_ne_done x)
  | none =>
    rw [hi.done hchecks, Host.Outcome.next.injEq] at h
    obtain rfl : _ = r := Option.some.inj (h ▸ hr)
    exact ⟨rfl, rfl⟩

end

/-- Settles O43: each of the three is a blob window of the granularity in its `W[0]`, and a blob window faults and
completes as stated. -/
theorem blobWindowsExtractCircularly : Obligations.BlobWindowsExtractCircularly := by
  intro buf len start count s i w hmem
  have hwindow : encode i = ⟨w, buf, len, start, count⟩ ∧
      ∃ g, (w = 0x350#32 ↔ g = .g32) ∧ WindowsBlob g buf len start count i := by
    simp only [List.mem_cons, List.not_mem_nil, or_false, Prod.mk.injEq] at hmem
    obtain ⟨rfl, rfl⟩ | ⟨rfl, rfl⟩ | ⟨rfl, rfl⟩ := hmem
    · exact ⟨rfl, .auto, by decide, fun _ => rfl⟩
    · exact ⟨rfl, .g8, by decide, fun _ => rfl⟩
    · exact ⟨rfl, .g32, by decide, fun _ => rfl⟩
  obtain ⟨hencode, g, hg, hi⟩ := hwindow
  simp only [hg]
  refine ⟨hencode, fun h => ?_, fun h hlen => ?_, ?_, fun h hpos hgran hcount => ?_,
    fun h hpos hgran h1 h32 hfits => ?_⟩
  · exact hi.fault (windowChecks_of_not_admitted h g count)
  · exact hi.fault (windowChecks_of_empty h hlen g count)
  · rintro h - rfl hlen
    exact hi.fault (windowChecks_of_bad_length h hlen count)
  · exact hi.fault (windowChecks_of_bad_count h hpos hgran hcount)
  · refine ⟨_, hi.done ((windowChecks_eq_none _ _ _ _ _).2 ⟨h, hpos.ne', hgran, h1, h32, hfits⟩), fun k hk => ?_⟩
    rw [getLsbD_resultOf _ hk, testBit_win_blobValue s.mem buf.toNat hpos hfits]

/-! ### The two readings of a window (R206) -/

/-- The window is the low `count` bits of the right rotate. -/
theorem win_eq_ror_mod (V n start count : Nat) : win V n start count = ror V n (start % n) % 2 ^ count :=
  Nat.and_two_pow_sub_one_eq_mod _ _

/-- An amount below 2^31 is its word, so its residue is that of the word. -/
theorem residue_amount {c : Word} (hc : c.toNat < 2 ^ 31) (n : Nat) : residue (amount c) n = c.toNat % n := by
  rw [amount, BitVec.toInt_eq_toNat_of_lt (by omega), residue_natCast]

theorem rotateBy_lt (left : Bool) (V n e : Nat) : rotateBy left V n e < 2 ^ n := by
  cases left
  · exact ror_lt V n e
  · exact rol_lt V n e

/-- The value that a blob rotate leaves in a blob that is not empty. -/
theorem RotatesBlob.blobValue_done {g : Gran} {left : Bool} {buf len c : Word} {i : Instr}
    (hi : RotatesBlob g left buf len c i) {s : State} (h : rotChecks s.params g buf len = none)
    (hlen : 0 < len.toNat) :
    ∃ u, exec i s = .next u ∧ u.mem.blobValue buf.toNat len.toNat =
      rotateBy left (s.mem.blobValue buf.toNat len.toNat) (8 * len.toNat) (residue (amount c) (8 * len.toNat)) := by
  have hexec := hi s
  rw [rotateBlob, h, guarded_none, if_neg hlen.ne', complete_eq] at hexec
  exact ⟨_, hexec, Memory.blobValue_setBlob s.mem _ _ _ (rotateBy_lt left _ _ _)⟩

/-- Settles O45: bit `j` of RESULT is the bit that `getbitw` answers, and RESULT the low bits of the value that `rrot`
leaves. -/
theorem windowCollectsWrappedBits : Obligations.WindowCollectsWrappedBits := by
  intro buf len start count s t r h hr h0
  obtain ⟨hchecks, hresult⟩ := WindowsBlob.of_status_done (g := .auto) (fun _ => rfl) h hr h0
  obtain ⟨hadmit, hlen, -, -, h32, hfits⟩ := (windowChecks_eq_none _ _ _ _ _).1 hchecks
  have hpos : 0 < len.toNat := Nat.pos_of_ne_zero hlen
  constructor
  · intro j bit hj hbit
    rw [exec_getbitw_nonempty hadmit hpos, hbit, resultOf_toNat, hresult, getLsbD_resultOf _ (by omega),
      testBit_win_blobValue s.mem buf.toNat hpos hfits, decide_eq_true hj, Bool.true_and]
    rfl
  · intro hstart
    obtain ⟨u, hexec, hvalue⟩ := RotatesBlob.blobValue_done (g := .auto) (left := false) (c := start)
      (i := .rrot buf len start) (fun _ => rfl) ((rotChecks_eq_none _ _ _ _).2 ⟨hadmit, nofun⟩) hpos
    have hwin : win (s.mem.blobValue buf.toNat len.toNat) (8 * len.toNat) start.toNat count.toNat < 2 ^ 64 :=
      (win_lt _ _ _ _).trans_le (Nat.pow_le_pow_right (by decide) (by omega))
    refine ⟨u, hexec, ?_⟩
    rw [hresult, toNat_resultOf hwin, hvalue, residue_amount hstart, win_eq_ror_mod]
    rfl

/-! ### The strategies (R202, R203) -/

/-- Four bytes as a word, the first one lowest (R42). -/
theorem getLsbD_fourBytes (f : Nat → Byte) {k : Nat} (hk : k < 32) :
    (f 3 ++ f 2 ++ f 1 ++ f 0).getLsbD k = (f (k / 8)).getLsbD (k % 8) := by
  simp only [BitVec.getLsbD_append]
  split_ifs
  all_goals congr 2 <;> omega

/-- Byte `i` of the window from bit `st` on is 8 bits of the circle. -/
theorem getLsbD_windowByte (m : Memory) (buf len st i : Nat) {j : Nat} (hj : j < 8) :
    (windowByte m buf len st i).getLsbD j = m.bitAt buf ((st + (8 * i + j)) % (8 * len)) := by
  rw [windowByte, getLsbD_funnel (fun _ h => (m.bitAt_eq buf _ _ h).symm) (fun _ h => (m.bitAt_eq buf _ _ h).symm)
    (Nat.mod_lt st (by decide)).le hj]
  congr 2
  omega

/-- A word that collects 32 bits of the circle from `start` on gives the window, once its bits from `count` on are
cleared. -/
theorem toNat_and_mask_eq_win {m : Memory} {buf len start count : Nat} {t : Word} (hlen : 0 < len)
    (h32 : count ≤ 32) (hfits : count ≤ 8 * len)
    (ht : ∀ k, k < 32 → t.getLsbD k = m.bitAt buf ((start % (8 * len) + k) % (8 * len))) :
    t.toNat &&& mask count = win (m.blobValue buf len) (8 * len) start count := by
  apply Nat.eq_of_testBit_eq
  intro k
  rw [Nat.testBit_and, testBit_mask, testBit_win_blobValue m buf hlen hfits, Bool.and_comm]
  by_cases hk : k < count
  · rw [BitVec.testBit_toNat, ht k (by omega), Nat.mod_add_mod]
  · rw [decide_eq_false hk, Bool.false_and, Bool.false_and]

section
variable (m : Memory) (buf : Nat) {len count : Nat} (start : Nat) (hlen : 0 < len) (h32 : count ≤ 32)
  (hfits : count ≤ 8 * len)
include hlen h32 hfits

theorem windowByBytes_eq_win :
    windowByBytes m buf len start count = win (m.blobValue buf len) (8 * len) start count := by
  refine toNat_and_mask_eq_win hlen h32 hfits fun k hk => ?_
  rw [getLsbD_fourBytes _ hk, getLsbD_windowByte m buf len _ _ (Nat.mod_lt k (by decide)), Nat.div_add_mod]

theorem windowByWords_eq_win (hgran : len % 4 = 0) :
    windowByWords m buf len start count = win (m.blobValue buf len) (8 * len) start count := by
  refine toNat_and_mask_eq_win hlen h32 hfits fun k hk => ?_
  have hbits : 8 * len = 32 * (len / 4) := by omega
  rw [getLsbD_funnel (fun _ h => (m.bitAt_eq_readWord buf _ h).symm) (fun _ h => (m.bitAt_eq_readWord buf _ h).symm)
    (Nat.mod_lt _ (by decide)).le hk, Nat.div_add_mod, hbits]

end

/-- Settles O53: command and strategy give the window of the blob's value. -/
theorem windowStrategiesAgree : Obligations.WindowStrategiesAgree := by
  intro buf len start count s h hpos h1 h32 hfits
  refine ⟨?_, fun hgran => ?_⟩
  · rw [windowByBytes_eq_win s.mem buf.toNat start.toNat hpos h32 hfits]
    exact WindowsBlob.done (g := .g8) (fun _ => rfl)
      ((windowChecks_eq_none _ _ _ _ _).2 ⟨h, hpos.ne', nofun, h1, h32, hfits⟩)
  · rw [windowByWords_eq_win s.mem buf.toNat start.toNat hpos h32 hfits hgran]
    exact WindowsBlob.done (g := .g32) (fun _ => rfl)
      ((windowChecks_eq_none _ _ _ _ _).2 ⟨h, hpos.ne', fun _ => hgran, h1, h32, hfits⟩)

end Sys2Proof.Machine

/-! ## The dispatcher: granularities, and blobs of the width of a value form -/

namespace Sys2Proof.Machine

/-! ### The granularity is a check (R220, R225) -/

/-- Only the 32-bit strategy looks at the length. -/
theorem granCheck_eq_none (g : Gran) (len : Word) : granCheck g len = none ↔ (g = .g32 → len.toNat % 4 = 0) := by
  rw [granCheck, faultIf_eq_none, not_and, ne_eq, not_not]

/-- The granularities that accept a length act alike on it. -/
def GranularityOnlyChecked (len : Word) (body : Gran → State → Answer) : Prop :=
  ∀ g g' s, granCheck g len = none → granCheck g' len = none → body g s = body g' s

theorem granularityOnlyChecked_shiftBlob (f : Nat → Nat → Nat → Nat) (buf len c : Word) :
    GranularityOnlyChecked len fun g => shiftBlob g f buf len c := by
  intro g g' s hg hg'
  simp only [shiftBlob, shiftChecks, hg, hg']

theorem granularityOnlyChecked_rotateBlob (f : Nat → Nat → Nat → Nat) (buf len c : Word) :
    GranularityOnlyChecked len fun g => rotateBlob g f buf len c := by
  intro g g' s hg hg'
  simp only [rotateBlob, rotChecks, hg, hg']

theorem granularityOnlyChecked_windowBlob (buf len start count : Word) :
    GranularityOnlyChecked len fun g => windowBlob g buf len start count := by
  intro g g' s hg hg'
  simp only [windowBlob, windowChecks, hg, hg']

section
variable {len : Word} {body : Gran → State → Answer}

theorem GranularityOnlyChecked.g1_eq_g8 (h : GranularityOnlyChecked len body) (s : State) : body .g1 s = body .g8 s :=
  h _ _ s ((granCheck_eq_none _ _).2 nofun) ((granCheck_eq_none _ _).2 nofun)

theorem GranularityOnlyChecked.g32_eq_g8 (h : GranularityOnlyChecked len body) (hlen : len.toNat % 4 = 0) (s : State) :
    body .g32 s = body .g8 s :=
  h _ _ s ((granCheck_eq_none _ _).2 fun _ => hlen) ((granCheck_eq_none _ _).2 nofun)

/-- `select` chooses the 32-bit strategy only for a length that this strategy accepts (R220). -/
theorem GranularityOnlyChecked.auto_eq_selected (h : GranularityOnlyChecked len body) {s : State} {i32 i8 : Instr}
    (h32 : exec i32 s = body .g32 s) (h8 : exec i8 s = body .g8 s) :
    body .auto s = exec (if select len.toNat = .g32 then i32 else i8) s := by
  have hauto : body .auto s = body .g8 s := h _ _ s ((granCheck_eq_none _ _).2 nofun) ((granCheck_eq_none _ _).2 nofun)
  by_cases hlen : len.toNat % 4 = 0
  · rw [select, if_pos hlen, if_pos rfl, h32, hauto, h.g32_eq_g8 hlen]
  · rw [select, if_neg hlen, if_neg nofun, h8, hauto]

end

/-- Settles O46: in each of the five families the granularity is only checked. -/
theorem granularityIsNotObservable : Obligations.GranularityIsNotObservable := by
  intro buf len x y s
  have hlshift := granularityOnlyChecked_shiftBlob shl buf len x
  have hrshift := granularityOnlyChecked_shiftBlob shr buf len x
  have hlrot := granularityOnlyChecked_rotateBlob rol buf len x
  have hrrot := granularityOnlyChecked_rotateBlob ror buf len x
  have hwindow := granularityOnlyChecked_windowBlob buf len x y
  exact ⟨⟨hlshift.auto_eq_selected rfl rfl, hrshift.auto_eq_selected rfl rfl, hlrot.auto_eq_selected rfl rfl,
      hrrot.auto_eq_selected rfl rfl, hwindow.auto_eq_selected rfl rfl⟩,
    ⟨hlshift.g1_eq_g8 s, hrshift.g1_eq_g8 s, hlrot.g1_eq_g8 s, hrrot.g1_eq_g8 s⟩,
    fun hlen => ⟨hlshift.g32_eq_g8 hlen s, hrshift.g32_eq_g8 hlen s, hlrot.g32_eq_g8 hlen s, hrrot.g32_eq_g8 hlen s,
      hwindow.g32_eq_g8 hlen s⟩⟩

/-! ### A blob that holds a value (R42, R226) -/

/-- Bytes in little-endian order are the value of the blob (R11, R42). -/
theorem Memory.blobValue_of_bytes {m : Memory} {buf len N : Nat} {x : BitVec N} (hN : N = 8 * len)
    (hbytes : ∀ k, k < len → m.read (buf + k) = x.extractLsb' (8 * k) 8) : m.blobValue buf len = x.toNat := by
  apply Nat.eq_of_testBit_eq
  intro i
  rw [Memory.testBit_blobValue, BitVec.testBit_toNat]
  by_cases hi : i < 8 * len
  · rw [decide_eq_true hi, Bool.true_and, Memory.bitAt, hbytes _ (by omega), BitVec.getLsbD_extractLsb',
      decide_eq_true (Nat.mod_lt i (by decide)), Bool.true_and, Nat.div_add_mod]
  · rw [decide_eq_false hi, Bool.false_and, BitVec.getLsbD_of_ge x i (by omega)]

/-- The admitted blob is as wide as the value form's operand `x` and holds it. -/
structure HoldsValue {N : Nat} (s : State) (buf len : Word) (x : BitVec N) : Prop where
  admitted : Admitted s.params buf len
  width : N = 32 ∨ N = 64
  bits : 8 * len.toNat = N
  value : s.mem.blobValue buf.toNat len.toNat = x.toNat

theorem holdsValue_of_bytes {N : Nat} {s : State} {buf len : Word} {x : BitVec N} (hwidth : N = 32 ∨ N = 64)
    (hbits : 8 * len.toNat = N) (h : Admitted s.params buf len)
    (hbytes : ∀ k, k < len.toNat → s.mem.read (buf.toNat + k) = x.extractLsb' (8 * k) 8) : HoldsValue s buf len x :=
  ⟨h, hwidth, hbits, Memory.blobValue_of_bytes hbits.symm hbytes⟩

theorem shiftBy_lt (left : Bool) {V n : Nat} (hV : V < 2 ^ n) (a : Nat) : shiftBy left V n a < 2 ^ n := by
  cases left
  · exact shr_lt hV a
  · exact shl_lt V n a

section
variable {N : Nat} {s : State} {buf len c start count : Word} {x : BitVec N} {left : Bool} {i j : Instr}

/-- What is written to the blob is what the value form answers as RESULT, neither being cut. -/
theorem HoldsValue.blobValue_setBlob (h : HoldsValue s buf len x) {V : Nat} (hV : V < 2 ^ N) :
    (s.mem.setBlob buf.toNat len.toNat V).blobValue buf.toNat len.toNat = (resultOf V).toNat := by
  obtain ⟨-, hwidth, rfl, -⟩ := h
  rw [Memory.blobValue_setBlob s.mem _ _ _ hV,
    toNat_resultOf (hV.trans_le (Nat.pow_le_pow_right (by decide) (by omega)))]

theorem HoldsValue.len_pos (h : HoldsValue s buf len x) : 0 < len.toNat := by
  obtain ⟨-, hwidth, hbits, -⟩ := h
  omega

/-- The shift rows of R226, BAD_AMOUNT among them. -/
theorem HoldsValue.shift_agrees (h : HoldsValue s buf len x) (hi : ShiftsBlob .auto left buf len c i)
    (hj : ShiftsValue N left x.toNat c j) :
    (c.toInt < 0 → exec i s = .next (s.deliver ⟨faultCode .badAmount, 0#64⟩) ∧
      exec j s = .next (s.deliver ⟨faultCode .badAmount, 0#64⟩)) ∧
    (0 ≤ c.toInt → ∃ m r, exec i s = .next ((s.withMem m).deliver ⟨statusDone, 0#64⟩) ∧
      exec j s = .next (s.deliver ⟨statusDone, r⟩) ∧ m.blobValue buf.toNat len.toNat = r.toNat) := by
  refine ⟨fun hc => ⟨hi.fault (shiftChecks_of_negative h.admitted nofun hc), hj.fault hc s⟩, fun hc => ?_⟩
  have hchecks : shiftChecks s.params .auto buf len c = none :=
    (shiftChecks_eq_none _ _ _ _ _).2 ⟨h.admitted, nofun, hc⟩
  refine ⟨_, _, ?_, hj.done hc s, h.blobValue_setBlob (shiftBy_lt left x.isLt _)⟩
  rw [hi, shiftBlob, hchecks, guarded_none, complete_eq, h.value, h.bits]

/-- The rotate rows of R226. -/
theorem HoldsValue.rotate_agrees (h : HoldsValue s buf len x) (hi : RotatesBlob .auto left buf len c i)
    (hj : RotatesValue N left x.toNat c j) :
    ∃ m r, exec i s = .next ((s.withMem m).deliver ⟨statusDone, 0#64⟩) ∧
      exec j s = .next (s.deliver ⟨statusDone, r⟩) ∧ m.blobValue buf.toNat len.toNat = r.toNat := by
  have hchecks : rotChecks s.params .auto buf len = none := (rotChecks_eq_none _ _ _ _).2 ⟨h.admitted, nofun⟩
  refine ⟨_, _, ?_, hj s, h.blobValue_setBlob (rotateBy_lt left _ _ _)⟩
  rw [hi, rotateBlob, hchecks, guarded_none, if_neg h.len_pos.ne', complete_eq, h.value, h.bits]

/-- The window row of R226. -/
theorem HoldsValue.window_agrees (h : HoldsValue s buf len x) (hi : WindowsBlob .auto buf len start count i)
    (hj : WindowsValue N x.toNat start count j) (h1 : 1 ≤ count.toNat) (h32 : count.toNat ≤ 32) :
    exec i s = exec j s := by
  have hfits : count.toNat ≤ 8 * len.toNat := by
    obtain ⟨-, hwidth, hbits, -⟩ := h
    omega
  have hchecks : windowChecks s.params .auto buf len count = none :=
    (windowChecks_eq_none _ _ _ _ _).2 ⟨h.admitted, h.len_pos.ne', nofun, h1, h32, hfits⟩
  rw [hi.done hchecks, hj.done h1 h32, h.value, h.bits]

end

/-- A table of two rows, read row by row. -/
theorem forall_mem_two_rows {P : Instr → Instr → Prop} {i j i' j' : Instr} (h : P i j) (h' : P i' j') :
    ∀ a b, (a, b) ∈ [(i, j), (i', j')] → P a b := by
  intro a b hmem
  simp only [List.mem_cons, List.not_mem_nil, or_false, Prod.mk.injEq] at hmem
  obtain ⟨rfl, rfl⟩ | ⟨rfl, rfl⟩ := hmem
  · exact h
  · exact h'

/-- Settles O54: the rows of R226 for a blob of 32 bits. -/
theorem fourByteBlobActsAsItsValue : Obligations.FourByteBlobActsAsItsValue := by
  intro s buf x c start count hadmit hbytes
  have h : HoldsValue s buf 4#32 x := holdsValue_of_bytes (.inl rfl) rfl hadmit hbytes
  refine ⟨forall_mem_two_rows ?_ ?_, forall_mem_two_rows ?_ ?_, ?_⟩
  · exact h.shift_agrees (left := true) (fun _ => rfl) fun _ => rfl
  · exact h.shift_agrees (left := false) (fun _ => rfl) fun _ => rfl
  · exact h.rotate_agrees (left := true) (fun _ => rfl) fun _ => rfl
  · exact h.rotate_agrees (left := false) (fun _ => rfl) fun _ => rfl
  · exact h.window_agrees (fun _ => rfl) fun _ => rfl

/-- Settles O55: the rows of R226 for a blob of 64 bits. -/
theorem eightByteBlobActsAsItsValue : Obligations.EightByteBlobActsAsItsValue := by
  intro s x buf c start count hadmit hbytes
  have h : HoldsValue s buf 8#32 x := holdsValue_of_bytes (.inr rfl) rfl hadmit hbytes
  refine ⟨forall_mem_two_rows ?_ ?_, forall_mem_two_rows ?_ ?_, ?_⟩
  · exact h.shift_agrees (left := true) (fun _ => rfl) fun _ => rfl
  · exact h.shift_agrees (left := false) (fun _ => rfl) fun _ => rfl
  · exact h.rotate_agrees (left := true) (fun _ => rfl) fun _ => rfl
  · exact h.rotate_agrees (left := false) (fun _ => rfl) fun _ => rfl
  · exact h.window_agrees (fun _ => rfl) fun _ => rfl

end Sys2Proof.Machine

/-! ## Exceptions: what a fault leaves, who raises it, and its order -/

namespace Sys2Proof.Machine

/-! ### A fault and the state (R243, R245) -/

/-- What the response of a command tells: its checks found a fault, and nothing happened but the response; or they found
nothing, and STATUS is 0. -/
theorem exec_response_cases {i : Instr} {s t : State} {r : Response} (h : exec i s = .next t)
    (hr : t.response = some r) :
    (∃ f, checksOf s.params i = some f ∧ r = ⟨faultCode f, 0#64⟩ ∧ t = s.deliver r) ∨ r.status = statusDone := by
  cases hc : checksOf s.params i with
  | some f =>
    rw [exec_of_fault hc, Host.Outcome.next.injEq] at h
    obtain rfl : _ = r := Option.some.inj (h ▸ hr)
    exact .inl ⟨f, rfl, rfl, h.symm⟩
  | none =>
    obtain ⟨effect, -, hexec⟩ := exec_of_no_fault hc
    rw [hexec s rfl, Host.Outcome.next.injEq] at h
    obtain rfl : _ = r := Option.some.inj (h ▸ hr)
    exact .inr rfl

/-- A fault of the command in flight leaves nothing but its response: a raced command answers STATUS 0 (R275), so the
fault is that of an illegal packet or of the command's own checks. -/
theorem unitTurn_fault {s t : State} {p : Packet} {r : Response} (hf : s.inFlight = some p)
    (h : unitTurn s = .next t) (hr : t.response = some r) (hne : r.status ≠ statusDone) :
    t = s.deliver r ∧ r.result = 0#64 := by
  obtain ⟨hidle, -⟩ | ⟨_, i, -, -, hlegal⟩ | ⟨_, _, -, -, hillegal⟩ := unitTurn_cases s
  · simp [hf] at hidle
  · obtain hown | ⟨blob, u, -, -, -, hrace⟩ := settleRace_cases s (exec i s)
    · obtain ⟨f, -, rfl, ht⟩ | hdone := exec_response_cases (hown ▸ hlegal ▸ h) hr
      · exact ⟨ht, rfl⟩
      · exact absurd hdone hne
    · rw [hlegal, hrace, Host.Outcome.next.injEq] at h
      obtain rfl : _ = r := Option.some.inj (h ▸ hr)
      exact absurd rfl hne
  · rw [hillegal, raise_eq, Host.Outcome.next.injEq] at h
    obtain rfl : _ = r := Option.some.inj (h ▸ hr)
    exact ⟨h.symm, rfl⟩

/-- Settles O22: the step is the unit's turn, and a fault of the turn is its response. -/
theorem faultHasNoEffectButItsResponse : Obligations.FaultHasNoEffectButItsResponse := by
  intro s t p r hf hw h hr hne
  exact unitTurn_fault hf (step_eq_unitTurn hf hw ▸ h) hr hne

/-- A command does not see how the one before it ended: its checks and its effect look at the parameters and memory
only, and its own response takes the place of the other. -/
theorem exec_deliver (i : Instr) (s : State) (r : Response) : exec i (s.deliver r) = exec i s := by
  obtain ⟨effect, hexec, -⟩ := exec_confined i
  rw [hexec, hexec, State.deliver_params, State.deliver_mem]
  cases checksOf s.params i with
  | some f => rfl
  | none => rfl

/-- Settles O23: after the fault the state is the one before it with a response delivered (O22). -/
theorem faultIsForgottenByTheNextCommand : Obligations.FaultIsForgottenByTheNextCommand := by
  intro s t p r hf hw h hr hne
  obtain ⟨rfl, -⟩ := faultHasNoEffectButItsResponse s t p r hf hw h hr hne
  exact ⟨State.deliver_inFlight s r, fun j => exec_deliver j s r⟩

/-! ### Which commands raise which fault (R241) -/

/-- The column "raised by" of R241 for the faults of a decoded command, by its `W[0]`. -/
def RaisedBy (i : Instr) : CmdFault → Prop
  | .illegalCmd => False
  | .badLen => blobOf i ≠ none
  | .badGran => (encode i).w0 ∈ [0x330#32, 0x331#32, 0x340#32, 0x341#32, 0x350#32]
  | .badBitIndex => (encode i).w0 ∈ [0x10#32, 0x12#32, 0x13#32, 0x14#32, 0x15#32]
  | .badAmount => (encode i).w0 ∈
      [0x30#32, 0x130#32, 0x230#32, 0x330#32, 0x31#32, 0x131#32, 0x231#32, 0x331#32, 0x34#32, 0x35#32, 0x36#32, 0x37#32]
  | .badCount => (encode i).w0 ∈ [0x50#32, 0x250#32, 0x350#32, 0x54#32, 0x56#32]

/-- Checks that find only faults with the property `P`. -/
def FindsOnly (P : CmdFault → Prop) (checks : Option CmdFault) : Prop := ∀ f, checks = some f → P f

section
variable {P : CmdFault → Prop}

theorem findsOnly_none : FindsOnly P none := by
  rintro f ⟨⟩

theorem findsOnly_faultIf {c : Prop} [Decidable c] {f : CmdFault} (h : c → P f) : FindsOnly P (faultIf c f) := by
  intro g hg
  obtain ⟨hc, rfl⟩ := (faultIf_eq_some _ _ _).1 hg
  exact h hc

theorem findsOnly_firstFault_nil : FindsOnly P (firstFault []) := findsOnly_none

theorem findsOnly_firstFault_cons {o : Option CmdFault} {rest : List (Option CmdFault)} (ho : FindsOnly P o)
    (hrest : FindsOnly P (firstFault rest)) : FindsOnly P (firstFault (o :: rest)) := by
  cases o with
  | none => exact hrest
  | some f => exact ho

theorem findsOnly_admitBlob (hlen : P .badLen) (p : Params) (buf len : Word) : FindsOnly P (admitBlob p buf len) := by
  intro f hf
  by_cases h : Admitted p buf len
  · rw [(admitBlob_eq_none p buf len).2 h] at hf
    cases hf
  · rw [admitBlob_eq_badLen h, Option.some.injEq] at hf
    exact hf ▸ hlen

theorem findsOnly_bitChecks (hlen : P .badLen) (hbit : P .badBitIndex) (p : Params) (buf len bit : Word) :
    FindsOnly P (bitChecks p buf len bit) :=
  findsOnly_firstFault_cons (findsOnly_admitBlob hlen p buf len) <|
    findsOnly_firstFault_cons (findsOnly_faultIf fun _ => hbit) findsOnly_firstFault_nil

theorem findsOnly_wrapChecks (hlen : P .badLen) (p : Params) (buf len : Word) :
    FindsOnly P (wrapChecks p buf len) :=
  findsOnly_firstFault_cons (findsOnly_admitBlob hlen p buf len) <|
    findsOnly_firstFault_cons (findsOnly_faultIf fun _ => hlen) findsOnly_firstFault_nil

theorem findsOnly_granCheck {g : Gran} (hgran : g = .g32 → P .badGran) (len : Word) : FindsOnly P (granCheck g len) :=
  findsOnly_faultIf fun h => hgran h.1

theorem findsOnly_amountCheck (hamount : P .badAmount) (c : Word) : FindsOnly P (amountCheck c) :=
  findsOnly_faultIf fun _ => hamount

theorem findsOnly_countCheck (hcount : P .badCount) (count : Word) : FindsOnly P (countCheck count) :=
  findsOnly_faultIf fun _ => hcount

theorem findsOnly_shiftChecks {g : Gran} (hlen : P .badLen) (hgran : g = .g32 → P .badGran) (hamount : P .badAmount)
    (p : Params) (buf len c : Word) : FindsOnly P (shiftChecks p g buf len c) :=
  findsOnly_firstFault_cons (findsOnly_admitBlob hlen p buf len) <|
    findsOnly_firstFault_cons (findsOnly_granCheck hgran len) <|
      findsOnly_firstFault_cons (findsOnly_amountCheck hamount c) findsOnly_firstFault_nil

theorem findsOnly_rotChecks {g : Gran} (hlen : P .badLen) (hgran : g = .g32 → P .badGran) (p : Params)
    (buf len : Word) : FindsOnly P (rotChecks p g buf len) :=
  findsOnly_firstFault_cons (findsOnly_admitBlob hlen p buf len) <|
    findsOnly_firstFault_cons (findsOnly_granCheck hgran len) findsOnly_firstFault_nil

theorem findsOnly_windowChecks {g : Gran} (hlen : P .badLen) (hgran : g = .g32 → P .badGran) (hcount : P .badCount)
    (p : Params) (buf len count : Word) : FindsOnly P (windowChecks p g buf len count) :=
  findsOnly_firstFault_cons (findsOnly_admitBlob hlen p buf len) <|
    findsOnly_firstFault_cons (findsOnly_faultIf fun _ => hlen) <|
      findsOnly_firstFault_cons (findsOnly_granCheck hgran len) <|
        findsOnly_firstFault_cons (findsOnly_countCheck hcount count) <|
          findsOnly_firstFault_cons (findsOnly_faultIf fun _ => hcount) findsOnly_firstFault_nil

end

/-- The checks of a command find only the faults that R241 lists it under. -/
theorem checksOf_findsOnly_raisedBy (p : Params) (i : Instr) : FindsOnly (RaisedBy i) (checksOf p i) := by
  cases i
  case getbit | setbit | setbitv | clearbit | flipbit =>
    refine findsOnly_bitChecks ?_ ?_ _ _ _ _ <;> simp [RaisedBy, blobOf, encode, packBI]
  case getbitw => exact findsOnly_wrapChecks (by simp [RaisedBy, blobOf]) _ _ _
  case lshift | lshiftG1 | lshiftG8 | lshiftG32 | rshift | rshiftG1 | rshiftG8 | rshiftG32 =>
    refine findsOnly_shiftChecks ?_ ?_ ?_ _ _ _ _ <;> simp [RaisedBy, blobOf, encode, packBC]
  case lshiftW32 | rshiftW32 | lshiftW64 | rshiftW64 =>
    exact findsOnly_amountCheck (by simp [RaisedBy, encode, packVC32, packVC64]) _
  case lrot | lrotG1 | lrotG8 | lrotG32 | rrot | rrotG1 | rrotG8 | rrotG32 =>
    refine findsOnly_rotChecks ?_ ?_ _ _ _ <;> simp [RaisedBy, blobOf, encode, packBC]
  case window | windowG8 | windowG32 =>
    refine findsOnly_windowChecks ?_ ?_ ?_ _ _ _ _ <;> simp [RaisedBy, blobOf, encode, packBW]
  case windowW32 | windowW64 => exact findsOnly_countCheck (by simp [RaisedBy, encode]) _
  all_goals exact findsOnly_none

/-- Different faults have different codes (R241). -/
theorem faultCode_injective : Function.Injective faultCode := by
  intro f g
  cases f <;> cases g <;> simp [faultCode]

/-- A response whose STATUS is the code of a fault comes from a command that R241 lists under it. -/
theorem raisedBy_of_status {i : Instr} {s t : State} {r : Response} (h : exec i s = .next t)
    (hr : t.response = some r) {f : CmdFault} (hstatus : r.status = faultCode f) : RaisedBy i f := by
  obtain ⟨g, hg, rfl, -⟩ | hdone := exec_response_cases h hr
  · exact faultCode_injective hstatus ▸ checksOf_findsOnly_raisedBy s.params i g hg
  · exact absurd (hstatus.symm.trans hdone) (faultCode_ne_done f)

/-- STATUS lies in 0x00 to 0x06 (R241). -/
theorem exec_status_le {i : Instr} {s t : State} {r : Response} (h : exec i s = .next t) (hr : t.response = some r) :
    r.status.toNat ≤ 6 := by
  obtain ⟨f, -, rfl, -⟩ | hdone := exec_response_cases h hr
  · exact (faultCode_range f).2
  · rw [hdone]
    decide

/-- Settles O24: code by code, by `raisedBy_of_status`. -/
theorem eachFaultIsRaisedByItsCommandsOnly : Obligations.EachFaultIsRaisedByItsCommandsOnly := by
  intro i s t r h hr
  have hby {f : CmdFault} : r.status = faultCode f → RaisedBy i f := raisedBy_of_status h hr
  exact ⟨hby (f := .illegalCmd), exec_status_le h hr, hby (f := .badLen), hby (f := .badGran),
    hby (f := .badBitIndex), hby (f := .badAmount), hby (f := .badCount)⟩

/-! ### A run that has gone wrong (R245) -/

theorem State.goneWrong_iff (s : State) :
    s.goneWrong = true ↔ ∃ r, (r ∈ s.record ∨ s.response = some r) ∧ r.status ≠ statusDone := by
  simp [State.goneWrong, or_and_right, exists_or]

/-- A host access to memory leaves the response channel alone. -/
theorem response_of_hostStore {a : Nat} {b : Byte} {s t : State} (h : hostStore a b s = .next t) :
    t.response = s.response := by
  obtain ⟨-, hstore⟩ | ⟨-, hstop⟩ := hostStore_cases a b s
  · rw [hstore, Host.Outcome.next.injEq] at h
    exact h ▸ rfl
  · simp [hstop] at h

theorem response_of_hostLoad {a : Nat} {s t : State} (h : hostLoad a s = .next t) : t.response = s.response := by
  obtain ⟨-, -, hload⟩ | ⟨-, -, hload⟩ | ⟨-, hstop⟩ := hostLoad_cases a s
  · rw [hload, Host.Outcome.next.injEq] at h
    exact h ▸ rfl
  · rw [hload, Host.Outcome.next.injEq] at h
    exact h ▸ rfl
  · simp [hstop] at h

/-- A pending response stays pending or goes to the record. The unit cannot replace it, since nothing is in flight while
a response is pending (R26). -/
theorem pending_kept_by_step {s t : State} {r : Response} (hs : Sound s) (hr : s.response = some r)
    (h : step s = .next t) : r ∈ t.record ∨ t.response = some r := by
  have hidle : s.inFlight = none := hs.channels.resolve_right (by simp [hr])
  obtain ⟨hturn, -⟩ | ⟨p, rest, -, -, hissue⟩ | ⟨rest, -, -, hawait⟩ | ⟨a, b, rest, -, hstore⟩ |
    ⟨a, rest, -, hload⟩ | ⟨rest, -, hreset⟩ := step_cases s
  · obtain rfl : s = t := by simpa [hturn, unitTurn, hidle] using h
    exact .inr hr
  · rw [hissue, Host.Outcome.next.injEq] at h
    exact .inl (by simp [← h, hr])
  · rw [hawait, Host.Outcome.next.injEq] at h
    exact .inl (by simp [← h, hr])
  · exact .inr ((response_of_hostStore (s := { s with moves := rest }) (hstore ▸ h)).trans hr)
  · exact .inr ((response_of_hostLoad (s := { s with moves := rest }) (hload ▸ h)).trans hr)
  · rw [hreset, Host.Outcome.next.injEq] at h
    exact .inl (by simp [← h, hr])

/-- Settles O60: the record only grows (`keeps_of_step`), and a pending response stays or is recorded. -/
theorem goneWrongIsKept : Obligations.GoneWrongIsKept := by
  intro s t hinv hwrong h
  obtain ⟨r, hmem, hne⟩ := s.goneWrong_iff.1 hwrong
  refine t.goneWrong_iff.2 ⟨r, ?_, hne⟩
  obtain hrecord | hpending := hmem
  · obtain ⟨new, hnew⟩ := (keeps_of_step h).record
    exact .inl (hnew ▸ List.mem_append_left new hrecord)
  · exact pending_kept_by_step ((State.inv_iff_sound s).1 hinv) hpending h

/-! ### Empty blobs (R246) -/

/-- An empty blob is admitted wherever it is said to be (R44). -/
theorem admitted_empty (p : Params) (buf : Word) : Admitted p buf 0#32 := by
  have hbuf : buf.toNat < 2 ^ 32 := buf.isLt
  exact ⟨Nat.zero_le _, hbuf.le, .inl rfl⟩

/-- No bit index lies in an empty blob. -/
theorem bitChecks_of_empty (p : Params) (buf bit : Word) : bitChecks p buf 0#32 bit = some .badBitIndex :=
  bitChecks_of_index_outside (admitted_empty p buf) (Nat.zero_le _)

section
variable {g : Gran} {left : Bool} {buf c : Word} {i : Instr}

/-- A blob shift of an empty blob completes without an access, or its amount is negative. -/
theorem ShiftsBlob.of_empty (hi : ShiftsBlob g left buf 0#32 c i) (s : State) :
    (0 ≤ c.toInt → exec i s = .next (s.deliver ⟨0x00#8, 0#64⟩)) ∧
    (c.toInt < 0 → exec i s = .next (s.deliver ⟨0x05#8, 0#64⟩)) := by
  have hadmit : Admitted s.params buf 0#32 := admitted_empty s.params buf
  refine ⟨fun hc => ?_, fun hc => hi.fault (shiftChecks_of_negative hadmit (fun _ => rfl) hc)⟩
  rw [hi, shiftBlob, (shiftChecks_eq_none _ _ _ _ _).2 ⟨hadmit, fun _ => rfl, hc⟩, guarded_none]
  rfl

theorem RotatesBlob.of_empty (hi : RotatesBlob g left buf 0#32 c i) (s : State) :
    exec i s = .next (s.deliver ⟨0x00#8, 0#64⟩) :=
  hi.empty ((rotChecks_eq_none _ _ _ _).2 ⟨admitted_empty s.params buf, fun _ => rfl⟩) rfl

theorem WindowsBlob.of_empty {start count : Word} (hi : WindowsBlob g buf 0#32 start count i) (s : State) :
    exec i s = .next (s.deliver ⟨0x02#8, 0#64⟩) :=
  hi.fault (windowChecks_of_empty (admitted_empty s.params buf) rfl g count)

end

/-- Settles O27: row by row, the granularities of one row by one lemma. -/
theorem emptyBlobTable : Obligations.EmptyBlobTable := by
  intro s buf x y
  have hbit (i : Instr) (h : checksOf s.params i = bitChecks s.params buf 0#32 x) :
      exec i s = .next (s.deliver ⟨0x04#8, 0#64⟩) := exec_of_fault (h.trans (bitChecks_of_empty _ buf x))
  simp only [List.forall_mem_cons, List.not_mem_nil, false_imp_iff, implies_true, and_true]
  refine ⟨⟨hbit _ rfl, hbit _ rfl, hbit _ rfl, hbit _ rfl, hbit _ rfl⟩, ?_, ?_, ?_, ?_⟩
  · exact exec_of_fault (i := .getbitw buf 0#32 x) (wrapChecks_of_empty (admitted_empty s.params buf) rfl)
  · have hleft {g : Gran} {i : Instr} (hi : ShiftsBlob g true buf 0#32 x i) := hi.of_empty s
    have hright {g : Gran} {i : Instr} (hi : ShiftsBlob g false buf 0#32 x i) := hi.of_empty s
    exact ⟨hleft (g := .auto) fun _ => rfl, hleft (g := .g1) fun _ => rfl, hleft (g := .g8) fun _ => rfl,
      hleft (g := .g32) fun _ => rfl, hright (g := .auto) fun _ => rfl, hright (g := .g1) fun _ => rfl,
      hright (g := .g8) fun _ => rfl, hright (g := .g32) fun _ => rfl⟩
  · have hleft {g : Gran} {i : Instr} (hi : RotatesBlob g true buf 0#32 x i) := hi.of_empty s
    have hright {g : Gran} {i : Instr} (hi : RotatesBlob g false buf 0#32 x i) := hi.of_empty s
    exact ⟨hleft (g := .auto) fun _ => rfl, hleft (g := .g1) fun _ => rfl, hleft (g := .g8) fun _ => rfl,
      hleft (g := .g32) fun _ => rfl, hright (g := .auto) fun _ => rfl, hright (g := .g1) fun _ => rfl,
      hright (g := .g8) fun _ => rfl, hright (g := .g32) fun _ => rfl⟩
  · have hwindow {g : Gran} {i : Instr} (hi : WindowsBlob g buf 0#32 x y i) := hi.of_empty s
    exact ⟨hwindow (g := .auto) fun _ => rfl, hwindow (g := .g8) fun _ => rfl, hwindow (g := .g32) fun _ => rfl⟩

/-! ### The order of the checks (R242) -/

/-- Settles O28: BAD_GRAN stands before BAD_AMOUNT, an empty blob before BAD_COUNT, and decoding before every check. -/
theorem faultPriorityExamples : Obligations.FaultPriorityExamples := by
  intro s buf
  refine ⟨fun h => ?_, ?_, ?_⟩
  · exact exec_of_fault (i := .lshiftG32 buf 3#32 _) (shiftChecks_of_bad_length h (by decide) _)
  · exact WindowsBlob.of_empty (g := .g32) (fun _ => rfl) s
  · exact runPacket_of_w4_ne_zero (by decide) (by decide) buf 0#32 0#32 s

end Sys2Proof.Machine

/-! ## Reset and hazards: an idle unit, the end of the address space, reset in mid-command, a raced command -/

namespace Sys2Proof.Machine

/-! ### An idle unit (R270) -/

/-- A host without a move leaves the step to the unit. -/
theorem step_of_no_move {s : State} (hm : s.moves = []) : step s = unitTurn s := by
  simp [step, hm]

theorem unitTurn_of_idle {s : State} (hf : s.inFlight = none) : unitTurn s = .next s := by
  simp [unitTurn, hf]

/-- Settles O9: the step is the unit's turn, and an idle unit's turn changes nothing. -/
theorem idleUnitWaits : Obligations.IdleUnitWaits := by
  intro s hf hm
  exact (step_of_no_move hm).trans (unitTurn_of_idle hf)

/-! ### The host's accesses and reset -/

section
variable {s : State} {a : Nat} {b : Byte} {rest : List HostMove}

theorem step_store (hm : s.moves = .store a b :: rest) : step s = hostStore a b { s with moves := rest } := by
  simp [step, hm, hostMove]

theorem step_load (hm : s.moves = .load a :: rest) : step s = hostLoad a { s with moves := rest } := by
  simp [step, hm, hostMove]

theorem step_reset (hm : s.moves = .reset :: rest) : step s = .next (resetUnit { s with moves := rest }) := by
  simp [step, hm, hostMove]

end

/-- Settles O57: of the answers of a store and of a load, only the stop is left at 2^32 and above. -/
theorem hostAccessOutsideTheAddressSpaceStops : Obligations.HostAccessOutsideTheAddressSpaceStops := by
  intro s a b rest ha
  have hnot : ¬ a < 2 ^ 32 := not_lt.2 ha
  refine ⟨fun hm => ?_, fun hm => ?_⟩
  · obtain ⟨hlt, -⟩ | ⟨-, hstop⟩ := hostStore_cases a b { s with moves := rest }
    · exact absurd hlt hnot
    · exact (step_store hm).trans hstop
  · obtain ⟨hlt, -⟩ | ⟨hlt, -⟩ | ⟨-, hstop⟩ := hostLoad_cases a { s with moves := rest }
    · exact absurd hlt hnot
    · exact absurd hlt hnot
    · exact (step_load hm).trans hstop

/-! ### A blob of draws (R271, R275) -/

theorem sameOutside_scramble (m : Memory) (buf len d : Nat) : SameOutside buf len m (m.scramble (buf, len) d) := by
  intro a ha
  rw [Memory.scramble, Memory.read_fill, if_neg (by omega)]

theorem Memory.read_scramble_inside (m : Memory) (buf d : Nat) {len k : Nat} (hk : k < len) :
    (m.scramble (buf, len) d).read (buf + k) = Config.freeByte (d + k) := by
  rw [Memory.scramble, Memory.read_fill, if_pos (by omega), Nat.add_sub_cancel_left]

theorem SameOutside.trans {buf len : Nat} {m₁ m₂ m₃ : Memory} (h : SameOutside buf len m₁ m₂)
    (h' : SameOutside buf len m₂ m₃) : SameOutside buf len m₁ m₃ := fun a ha => (h' a ha).trans (h a ha)

/-! ### Reset in mid-command (R271) -/

theorem State.current_of_legal {s : State} {p : Packet} {i : Instr} (hf : s.inFlight = some p) (hd : decode p = .ok i) :
    s.current = some i := by
  simp [State.current, hf, hd]

/-- Reset touches memory only to draw the blob of a legal command in flight, and only if that command writes memory or
was raced. -/
theorem resetUnit_mem_cases (s : State) :
    (resetUnit s).mem = s.mem ∨
    ∃ p i blob, s.inFlight = some p ∧ decode p = .ok i ∧ blobOf i = some blob ∧
      (s.raced = true ∨ writesMemory i = true) ∧ (resetUnit s).mem = s.mem.scramble blob s.draws := by
  obtain hkept | ⟨blob, hclaim, hspoils, hdrawn⟩ := resetUnit_cases s
  · exact .inl (by simp [hkept])
  · obtain ⟨p, i, hf, hd, -, hb⟩ := State.claimed_eq_some.1 hclaim
    have hwhy : s.raced = true ∨ writesMemory i = true := by
      simpa [State.resetSpoils, State.current_of_legal hf hd] using hspoils
    exact .inr ⟨p, i, blob, hf, hd, hb, hwhy, by rw [hdrawn]⟩

/-- Settles O13: the channels by the laws of reset; a memory that reset drew in excludes each case in which it is to be
unchanged, and the draws lie in the blob in flight. -/
theorem resetAbandonsTheCommandInFlight : Obligations.ResetAbandonsTheCommandInFlight := by
  intro s rest hm
  refine ⟨_, step_reset hm, by simp, by simp, by simp, by simp, ?_⟩
  obtain hkept | ⟨p, i, ⟨buf, len⟩, hf, hd, hb, hwhy, hdrawn⟩ := resetUnit_mem_cases { s with moves := rest }
  · exact ⟨fun _ => hkept, fun _ _ _ _ => hkept, fun _ _ _ _ _ _ => hkept, fun _ _ _ _ _ => hkept,
      fun _ _ _ _ _ _ _ a _ => by rw [hkept]⟩
  · have hpacket {q : Packet} (hq : s.inFlight = some q) : q = p := Option.some.inj (hq.symm.trans hf)
    have hinstr {q : Packet} {j : Instr} (hq : s.inFlight = some q) (hj : decode q = .ok j) : j = i :=
      Except.ok.inj (hj.symm.trans (hpacket hq ▸ hd))
    refine ⟨fun hidle => ?_, fun q e hq he => ?_, fun q j hq hj hreads hr => ?_, fun q j hq hj hvalue => ?_,
      fun q j buf' len' hq hj hblob => ?_⟩
    · exact absurd (hidle.symm.trans hf) (by simp)
    · exact absurd (he.symm.trans (hpacket hq ▸ hd)) (by simp)
    · rw [hinstr hq hj] at hreads
      simp [hreads, hr] at hwhy
    · rw [hinstr hq hj, hb] at hvalue
      cases hvalue
    · rw [hinstr hq hj, hb] at hblob
      cases hblob
      exact hdrawn ▸ sameOutside_scramble s.mem buf len s.draws

/-! ### A race on the blob in flight (R275) -/

section
variable {s : State} {buf len : Nat}

theorem State.claims_iff (hclaim : s.claimed = some (buf, len)) (a : Nat) :
    s.claims a = true ↔ buf ≤ a ∧ a < buf + len := by
  simp [State.claims, hclaim]

theorem State.lt_of_claims {a : Nat} (h : s.claims a = true) : a < 2 ^ 32 := by
  cases hclaim : s.claimed with
  | none => simp [State.claims, hclaim] at h
  | some blob =>
    obtain ⟨-, hhi⟩ := (State.claims_iff hclaim a).1 h
    exact hhi.trans_le (State.claimed_fits hclaim)

/-- A host store in the blob in flight writes its byte and marks the command as raced. -/
theorem step_store_inside {a : Nat} {b : Byte} {rest : List HostMove} (hc : s.claims a = true)
    (hm : s.moves = .store a b :: rest) :
    step s = .next { s with mem := s.mem.write a b, moves := rest, raced := true } := by
  simpa [step_store hm, hostStore, hc] using State.lt_of_claims hc

/-- A host load in the blob in flight returns a draw. -/
theorem step_load_inside {a : Nat} {rest : List HostMove} (hc : s.claims a = true) (hm : s.moves = .load a :: rest) :
    step s = .next { s with reads := s.reads ++ [Config.freeByte s.draws], draws := s.draws + 1, moves := rest } := by
  simpa [step_load hm, hostLoad, hc] using State.lt_of_claims hc

theorem settleRace_of_raced {blob : Nat × Nat} (hr : s.raced = true) (hclaim : s.claimed = some blob) (t : State) :
    settleRace s (.next t) = .next (raceOutcome blob t) := by
  simp [settleRace, hr, hclaim]

end

/-- Settles O59: STATUS 0 makes the command's blob the blob in flight; the two accesses lie in it, and the raced command
ends with its own outcome, whose blob and RESULT the race draws. -/
theorem racedCommandStillCompletes : Obligations.RacedCommandStillCompletes := by
  intro s t p i buf len r hf hd hb hexec hr h0
  have hclaim : s.claimed = some (buf, len) :=
    State.claimed_eq_some.2 ⟨p, i, hf, hd, completes_of_done hexec hr h0, hb⟩
  refine ⟨fun a b rest hlo hhi hm => ?_, fun a rest hlo hhi hm => ?_, fun hraced hw => ?_⟩
  · have hc : s.claims a = true := (State.claims_iff hclaim a).2 ⟨hlo, hhi⟩
    exact ⟨_, step_store_inside hc hm, rfl, hf, rfl, rfl, rfl, Memory.read_write_same _ _ _,
      fun a' hne => Memory.read_write_other _ _ hne⟩
  · have hc : s.claims a = true := (State.claims_iff hclaim a).2 ⟨hlo, hhi⟩
    exact ⟨_, step_load_inside hc hm, rfl, rfl, rfl, rfl, hf, rfl, rfl⟩
  · have hstep : step s = .next (raceOutcome (buf, len) t) := by
      calc step s = unitTurn s := step_eq_unitTurn hf hw
        _ = settleRace s (exec i s) := unitTurn_of_legal hf hd
        _ = .next (raceOutcome (buf, len) t) := by rw [hexec, settleRace_of_raced hraced hclaim]
    have hframe : SameOutside buf len s.mem t.mem := (commandWritesOnlyItsBlob i s t hexec).1 buf len hb
    obtain ⟨m, r', hends, -⟩ := exec_delivers i s
    obtain rfl : t = (s.withMem m).deliver r' := Host.Outcome.next.inj (hexec.symm.trans hends)
    exact ⟨_, hstep, rfl, rfl, hframe.trans (sameOutside_scramble _ _ _ _), rfl, rfl,
      fun k hk => Memory.read_scramble_inside _ _ _ hk⟩

end Sys2Proof.Machine
